-- ==== Sys2Proof/Word.lean ====
section
/-! DEFINITION. The word types of ECC-CORE: what the spec gives a fixed width. -/

namespace Sys2Proof

/-- A 32-bit word: a command word, or one register of the window (10_state.md section 3, R90). -/
abbrev Word := BitVec 32

/-- A byte of a window word on the Host bus (R65). -/
abbrev Byte := BitVec 8

/-- The unsigned 4-bit register index of a command field (R90, R91). -/
abbrev RegIdx := BitVec 4

end Sys2Proof
end

