-- ==== Sys2Proof/Config.lean ====
section
/-! DEFINITION. The implementation parameters of R5 and the one free value of the model. -/

namespace Sys2Proof

/-- R5 `DIV0_MODE`: what a zero divisor does in FDIV, FINV and FPOWS (92_eei_decisions.md D9). -/
inductive Div0Mode where
  | fault
  | referenceFormula
  deriving DecidableEq, Repr

/-- R5 `POWU_REDUCTION`: how FPOWU reduces its exponent (90_conflicts.md C1, D10). -/
inductive PowuReduction where
  | modP
  | modPMinus1
  | unreduced
  deriving DecidableEq, Repr

/-- R5 `BAD_ACCESS_MODE`: the response to an access that is not an aligned 32-bit access (R63, D24). -/
inductive BadAccessMode where
  | busError
  | ignore
  deriving DecidableEq, Repr

/-- The parameters of one ECC-CORE (R5). They are fixed for an instance (R39) and no reset changes
them (R282). -/
structure Config where
  /-- `W`, the width in bits of field values, moduli, scalars and staging buffers. -/
  w : Nat
  /-- `NF`, `NC`, `NP`, `NS`: the register counts. -/
  nf : Nat
  nc : Nat
  np : Nat
  ns : Nat
  div0Mode : Div0Mode
  powuReduction : PowuReduction
  badAccessMode : BadAccessMode
  /-- `BASE`, the physical address of the register window. -/
  base : Nat
  deriving DecidableEq, Repr

/-- R6 `WW = W / 32`: the 32-bit words in one W-bit value. -/
def Config.words (cfg : Config) : Nat := cfg.w / 32

/-- The legal values of the parameters (R5). -/
abbrev Config.Legal (cfg : Config) : Prop :=
  cfg.w % 32 = 0 ∧ 32 ≤ cfg.w ∧ cfg.w ≤ 2048 ∧
  1 ≤ cfg.nf ∧ cfg.nf ≤ 16 ∧ 1 ≤ cfg.nc ∧ cfg.nc ≤ 16 ∧
  1 ≤ cfg.np ∧ cfg.np ≤ 16 ∧ 1 ≤ cfg.ns ∧ cfg.ns ≤ 16 ∧
  cfg.base % 1024 = 0

/-- FREE VALUE (log 2). R5 leaves `BASE` open, "platform choice, 1 KiB aligned": this is the number
of the 1 KiB page at which the window of `Config.default` lies. It has no body, so nothing can be
proved of its value. -/
opaque Config.basePage : Nat

/-- The default parameters (R5), at whatever `BASE` the platform chose. -/
def Config.default : Config where
  w := 256
  nf := 16
  nc := 4
  np := 8
  ns := 4
  div0Mode := .fault
  powuReduction := .modP
  badAccessMode := .busError
  base := 1024 * Config.basePage

end Sys2Proof
end

