-- ==== Sys2Proof/Syntax.lean ====
section
/-! DEFINITION. The 22 commands of R92 as syntax, their operands in assembler order (R110) and the
pseudo-instructions (R111). -/

namespace Sys2Proof

/-- R91: the register file a command field names. -/
inductive RegClass where
  | F
  | C
  | P
  | S
  deriving DecidableEq, Repr

/-- A command (R92), one constructor per row of the opcode table; its arguments are the used fields
in the order rd, rs1, rs2, rs3. -/
inductive Instr where
  | nop
  | fnew (rd : RegIdx)
  | frd (rs1 : RegIdx)
  | fadd (rd rs1 rs2 : RegIdx)
  | fsub (rd rs1 rs2 : RegIdx)
  | fmul (rd rs1 rs2 : RegIdx)
  | fdiv (rd rs1 rs2 : RegIdx)
  | finv (rd rs1 : RegIdx)
  | fpowu (rd rs1 rs2 : RegIdx)
  | fpows (rd rs1 rs2 : RegIdx)
  | feq (rs1 rs2 : RegIdx)
  | sld (rd : RegIdx)
  | sst (rs1 : RegIdx)
  | cnew (rd rs1 rs2 : RegIdx)
  | pnew (rd rs1 rs2 rs3 : RegIdx)
  | pid (rd rs1 : RegIdx)
  | padd (rd rs1 rs2 : RegIdx)
  | peq (rs1 rs2 : RegIdx)
  | pgetx (rd rs1 : RegIdx)
  | pgety (rd rs1 : RegIdx)
  | pmuln (rd rs1 rs2 : RegIdx)
  | pmulb (rd rs1 rs2 : RegIdx)
  deriving DecidableEq, Repr

/-- The destination register a command writes, with its file (R92 column rd). -/
def Instr.dest : Instr → Option (RegClass × RegIdx)
  | .nop => none
  | .fnew rd => some (.F, rd)
  | .frd _ => none
  | .fadd rd _ _ => some (.F, rd)
  | .fsub rd _ _ => some (.F, rd)
  | .fmul rd _ _ => some (.F, rd)
  | .fdiv rd _ _ => some (.F, rd)
  | .finv rd _ => some (.F, rd)
  | .fpowu rd _ _ => some (.F, rd)
  | .fpows rd _ _ => some (.F, rd)
  | .feq _ _ => none
  | .sld rd => some (.S, rd)
  | .sst _ => none
  | .cnew rd _ _ => some (.C, rd)
  | .pnew rd _ _ _ => some (.P, rd)
  | .pid rd _ => some (.P, rd)
  | .padd rd _ _ => some (.P, rd)
  | .peq _ _ => none
  | .pgetx rd _ => some (.F, rd)
  | .pgety rd _ => some (.F, rd)
  | .pmuln rd _ _ => some (.P, rd)
  | .pmulb rd _ _ => some (.P, rd)

/-- The source registers a command reads, with their files, in the order rs1, rs2, rs3 (R92, R251). -/
def Instr.sources : Instr → List (RegClass × RegIdx)
  | .nop => []
  | .fnew _ => []
  | .frd rs1 => [(.F, rs1)]
  | .fadd _ rs1 rs2 => [(.F, rs1), (.F, rs2)]
  | .fsub _ rs1 rs2 => [(.F, rs1), (.F, rs2)]
  | .fmul _ rs1 rs2 => [(.F, rs1), (.F, rs2)]
  | .fdiv _ rs1 rs2 => [(.F, rs1), (.F, rs2)]
  | .finv _ rs1 => [(.F, rs1)]
  | .fpowu _ rs1 rs2 => [(.F, rs1), (.S, rs2)]
  | .fpows _ rs1 rs2 => [(.F, rs1), (.S, rs2)]
  | .feq rs1 rs2 => [(.F, rs1), (.F, rs2)]
  | .sld _ => []
  | .sst rs1 => [(.S, rs1)]
  | .cnew _ rs1 rs2 => [(.F, rs1), (.F, rs2)]
  | .pnew _ rs1 rs2 rs3 => [(.C, rs1), (.F, rs2), (.F, rs3)]
  | .pid _ rs1 => [(.C, rs1)]
  | .padd _ rs1 rs2 => [(.P, rs1), (.P, rs2)]
  | .peq rs1 rs2 => [(.P, rs1), (.P, rs2)]
  | .pgetx _ rs1 => [(.P, rs1)]
  | .pgety _ rs1 => [(.P, rs1)]
  | .pmuln _ rs1 rs2 => [(.P, rs1), (.S, rs2)]
  | .pmulb _ rs1 rs2 => [(.P, rs1), (.S, rs2)]

/-- The operands in assembler order: the destination, if there is one, then the sources (R110). -/
def Instr.operands (i : Instr) : List (RegClass × RegIdx) :=
  i.dest.toList ++ i.sources

/-- The mnemonic of a command (R92). -/
def Instr.mnemonic : Instr → String
  | .nop => "NOP"
  | .fnew _ => "FNEW"
  | .frd _ => "FRD"
  | .fadd _ _ _ => "FADD"
  | .fsub _ _ _ => "FSUB"
  | .fmul _ _ _ => "FMUL"
  | .fdiv _ _ _ => "FDIV"
  | .finv _ _ => "FINV"
  | .fpowu _ _ _ => "FPOWU"
  | .fpows _ _ _ => "FPOWS"
  | .feq _ _ => "FEQ"
  | .sld _ => "SLD"
  | .sst _ => "SST"
  | .cnew _ _ _ => "CNEW"
  | .pnew _ _ _ _ => "PNEW"
  | .pid _ _ => "PID"
  | .padd _ _ _ => "PADD"
  | .peq _ _ => "PEQ"
  | .pgetx _ _ => "PGETX"
  | .pgety _ _ => "PGETY"
  | .pmuln _ _ _ => "PMULN"
  | .pmulb _ _ _ => "PMULB"

/-- R111: `FSQR fd, fa` is `FMUL fd, fa, fa`. -/
def Instr.fsqr (fd fa : RegIdx) : Instr := .fmul fd fa fa

/-- R111: `PDBL pd, pa` is `PADD pd, pa, pa`. -/
def Instr.pdbl (pd pa : RegIdx) : Instr := .padd pd pa pa

/-- The letter of a register name (R11, R110). -/
def RegClass.letter : RegClass → String
  | .F => "f"
  | .C => "c"
  | .P => "p"
  | .S => "s"

/-- A register operand as the assembler writes it: the file's letter and the decimal index (R110). -/
def registerName (o : RegClass × RegIdx) : String := o.1.letter ++ toString o.2.toNat

/-- R110: a command in assembler syntax, `MNEMONIC op1, op2, ...`. -/
def Instr.text (i : Instr) : String :=
  if i.operands = [] then i.mnemonic
  else i.mnemonic ++ " " ++ ", ".intercalate (i.operands.map registerName)

end Sys2Proof
end

