-- ==== Sys2Proof/WellFormed.lean ====
section
/-! DEFINITION. Which commands exist on an instance: R94's range of every register index. -/

namespace Sys2Proof

/-- The count of a register file: `count(K)` of R95. -/
def Config.count (cfg : Config) : RegClass → Nat
  | .F => cfg.nf
  | .C => cfg.nc
  | .P => cfg.np
  | .S => cfg.ns

/-- R94: an operand names an existing register. -/
def Config.hasReg (cfg : Config) (o : RegClass × RegIdx) : Bool :=
  decide (o.2.toNat < cfg.count o.1)

/-- R94: every used field of the command names an existing register. -/
def Instr.wellFormed (cfg : Config) (i : Instr) : Bool :=
  i.operands.all cfg.hasReg

end Sys2Proof
end

