-- ==== Sys2Proof/Decode.lean ====
section
/-! DEFINITION. The encoding of R90 to R97: the opcode table, the decoder of R95, total on any word and
answering none for an illegal one, the encoder of R110, and the assembler of R110 and R111. -/

namespace Sys2Proof

/-- R90: the command word with the given fields, `op ++ rd ++ rs1 ++ rs2 ++ rs3 ++ z`. -/
def pack (op : BitVec 8) (rd rs1 rs2 rs3 : RegIdx) (z : BitVec 8) : Word :=
  op ++ rd ++ rs1 ++ rs2 ++ rs3 ++ z

/-- R90: bits [31:24]. -/
def opField (w : Word) : BitVec 8 := w.extractLsb' 24 8

/-- R90: bits [23:20]. -/
def rdField (w : Word) : RegIdx := w.extractLsb' 20 4

/-- R90: bits [19:16]. -/
def rs1Field (w : Word) : RegIdx := w.extractLsb' 16 4

/-- R90: bits [15:12]. -/
def rs2Field (w : Word) : RegIdx := w.extractLsb' 12 4

/-- R90: bits [11:8]. -/
def rs3Field (w : Word) : RegIdx := w.extractLsb' 8 4

/-- R90: bits [7:0]. -/
def zField (w : Word) : BitVec 8 := w.extractLsb' 0 8

/-- One row of R92: the mnemonic, match and mask, the class of each field (none for `-`) and the
command that the row's fields make. -/
structure Row where
  mnemonic : String
  pattern : Word
  mask : Word
  rd : Option RegClass
  rs1 : Option RegClass
  rs2 : Option RegClass
  rs3 : Option RegClass
  build : RegIdx → RegIdx → RegIdx → RegIdx → Instr

/-- R92: the rows of the opcode groups 0x0_ (system) and 0x1_ (field). -/
def systemAndFieldRows : List Row :=
  [⟨"NOP", 0x00000000, 0xFFFFFFFF, none, none, none, none, fun _ _ _ _ => .nop⟩,
   ⟨"FNEW", 0x10000000, 0xFF0FFFFF, some .F, none, none, none, fun d _ _ _ => .fnew d⟩,
   ⟨"FRD", 0x11000000, 0xFFF0FFFF, none, some .F, none, none, fun _ a _ _ => .frd a⟩,
   ⟨"FADD", 0x12000000, 0xFF000FFF, some .F, some .F, some .F, none, fun d a b _ => .fadd d a b⟩,
   ⟨"FSUB", 0x13000000, 0xFF000FFF, some .F, some .F, some .F, none, fun d a b _ => .fsub d a b⟩,
   ⟨"FMUL", 0x14000000, 0xFF000FFF, some .F, some .F, some .F, none, fun d a b _ => .fmul d a b⟩,
   ⟨"FDIV", 0x15000000, 0xFF000FFF, some .F, some .F, some .F, none, fun d a b _ => .fdiv d a b⟩,
   ⟨"FINV", 0x16000000, 0xFF00FFFF, some .F, some .F, none, none, fun d a _ _ => .finv d a⟩,
   ⟨"FPOWU", 0x17000000, 0xFF000FFF, some .F, some .F, some .S, none, fun d a b _ => .fpowu d a b⟩,
   ⟨"FPOWS", 0x18000000, 0xFF000FFF, some .F, some .F, some .S, none, fun d a b _ => .fpows d a b⟩,
   ⟨"FEQ", 0x19000000, 0xFFF00FFF, none, some .F, some .F, none, fun _ a b _ => .feq a b⟩]

/-- R92: the rows of the opcode group 0x2_ (scalar). -/
def scalarRows : List Row :=
  [⟨"SLD", 0x20000000, 0xFF0FFFFF, some .S, none, none, none, fun d _ _ _ => .sld d⟩,
   ⟨"SST", 0x21000000, 0xFFF0FFFF, none, some .S, none, none, fun _ a _ _ => .sst a⟩]

/-- R92: the row of the opcode group 0x3_ (curve). -/
def curveRows : List Row :=
  [⟨"CNEW", 0x30000000, 0xFF000FFF, some .C, some .F, some .F, none, fun d a b _ => .cnew d a b⟩]

/-- R92: the rows of the opcode group 0x4_ (point). -/
def pointRows : List Row :=
  [⟨"PNEW", 0x40000000, 0xFF0000FF, some .P, some .C, some .F, some .F, fun d a b c => .pnew d a b c⟩,
   ⟨"PID", 0x41000000, 0xFF00FFFF, some .P, some .C, none, none, fun d a _ _ => .pid d a⟩,
   ⟨"PADD", 0x42000000, 0xFF000FFF, some .P, some .P, some .P, none, fun d a b _ => .padd d a b⟩,
   ⟨"PEQ", 0x43000000, 0xFFF00FFF, none, some .P, some .P, none, fun _ a b _ => .peq a b⟩,
   ⟨"PGETX", 0x44000000, 0xFF00FFFF, some .F, some .P, none, none, fun d a _ _ => .pgetx d a⟩,
   ⟨"PGETY", 0x45000000, 0xFF00FFFF, some .F, some .P, none, none, fun d a _ _ => .pgety d a⟩,
   ⟨"PMULN", 0x46000000, 0xFF000FFF, some .P, some .P, some .S, none, fun d a b _ => .pmuln d a b⟩,
   ⟨"PMULB", 0x47000000, 0xFF000FFF, some .P, some .P, some .S, none, fun d a b _ => .pmulb d a b⟩]

/-- R92: the opcode map. -/
def opcodeTable : List Row :=
  systemAndFieldRows ++ scalarRows ++ curveRows ++ pointRows

/-- R92: a word selects a row when `(w & mask) = match`. -/
def Row.selects (r : Row) (w : Word) : Bool := decide (w &&& r.mask = r.pattern)

/-- R95: a used field of class `K` is below `count(K)`; an unused field is not looked at here. -/
def fieldInRange (cfg : Config) (cls : Option RegClass) (idx : RegIdx) : Bool :=
  match cls with
  | none => true
  | some k => cfg.hasReg (k, idx)

/-- R94, R95: every used field of the row names an existing register. -/
def Row.inRange (cfg : Config) (r : Row) (w : Word) : Bool :=
  fieldInRange cfg r.rd (rdField w) && fieldInRange cfg r.rs1 (rs1Field w) &&
    fieldInRange cfg r.rs2 (rs2Field w) && fieldInRange cfg r.rs3 (rs3Field w)

/-- R95 `Decode`: the one command a word encodes, or none for an illegal word. -/
def decode (cfg : Config) (w : Word) : Option Instr :=
  match opcodeTable.find? (fun r => r.selects w) with
  | none => none
  | some r =>
    if r.inRange cfg w then some (r.build (rdField w) (rs1Field w) (rs2Field w) (rs3Field w))
    else none

/-- R110: the word of a command. -/
def encode : Instr → Word
  | .nop => pack 0x00 0 0 0 0 0
  | .fnew d => pack 0x10 d 0 0 0 0
  | .frd a => pack 0x11 0 a 0 0 0
  | .fadd d a b => pack 0x12 d a b 0 0
  | .fsub d a b => pack 0x13 d a b 0 0
  | .fmul d a b => pack 0x14 d a b 0 0
  | .fdiv d a b => pack 0x15 d a b 0 0
  | .finv d a => pack 0x16 d a 0 0 0
  | .fpowu d a b => pack 0x17 d a b 0 0
  | .fpows d a b => pack 0x18 d a b 0 0
  | .feq a b => pack 0x19 0 a b 0 0
  | .sld d => pack 0x20 d 0 0 0 0
  | .sst a => pack 0x21 0 a 0 0 0
  | .cnew d a b => pack 0x30 d a b 0 0
  | .pnew d a b c => pack 0x40 d a b c 0
  | .pid d a => pack 0x41 d a 0 0 0
  | .padd d a b => pack 0x42 d a b 0 0
  | .peq a b => pack 0x43 0 a b 0 0
  | .pgetx d a => pack 0x44 d a 0 0 0
  | .pgety d a => pack 0x45 d a 0 0 0
  | .pmuln d a b => pack 0x46 d a b 0 0
  | .pmulb d a b => pack 0x47 d a b 0 0

/-- The command the decoder reads from a word numbered as the opcode table numbers it: the table gives
every row the whole command word, and a command is one 32-bit word (R97). The instance is the one of
R5's default counts. -/
def decodeTableWord (nbits w : Nat) : Option Instr :=
  decode Config.default (BitVec.ofNat 32 (w % 2 ^ nbits))

/-- The assembler's operands put into the fields rd, rs1, rs2, rs3: the used fields take the operands in
order, an unused field is 0 (R93, R110). An operand's index is below its file's count (R11). -/
def placeOperands (cfg : Config) : List (Option RegClass) → List (RegClass × Nat) → Option (List RegIdx)
  | [], [] => some []
  | none :: fields, ops => (placeOperands cfg fields ops).map (0 :: ·)
  | some k :: fields, (k', n) :: ops =>
    if k = k' ∧ n < cfg.count k then
      (placeOperands cfg fields ops).map (BitVec.ofNat 4 n :: ·)
    else none
  | _, _ => none

/-- R110: the command of a row of the table with the given operands. -/
def Row.assemble (cfg : Config) (r : Row) (ops : List (RegClass × Nat)) : Option Instr :=
  match placeOperands cfg [r.rd, r.rs1, r.rs2, r.rs3] ops with
  | some [d, a, b, c] => some (r.build d a b c)
  | _ => none

/-- R111: a pseudo-instruction as the command and the operands it expands to. -/
def expandPseudo (mnemonic : String) (ops : List (RegClass × Nat)) :
    String × List (RegClass × Nat) :=
  match ops with
  | [fd, fa] =>
    if mnemonic = "FSQR" then ("FMUL", [fd, fa, fa])
    else if mnemonic = "PDBL" then ("PADD", [fd, fa, fa])
    else (mnemonic, ops)
  | _ => (mnemonic, ops)

/-- R110, R111: the assembler, on a mnemonic in upper case and the operands as file and index. -/
def assemble (cfg : Config) (mnemonic : String) (ops : List (RegClass × Nat)) : Option Instr :=
  let (name, args) := expandPseudo mnemonic ops
  match opcodeTable.find? (fun r => r.mnemonic = name) with
  | none => none
  | some r => r.assemble cfg args

end Sys2Proof
end

