-- ==== Sys2Proof/Machine/State.lean ====
section
/-! DEFINITION. The state of ECC-CORE as plain data (10_state.md), the events of the Host and the
platform, the reasons a step can stop, and the state after reset (R38). -/

namespace Sys2Proof.Machine

/-- R20, R21: a field element `(inner | prime)`. -/
structure Felt where
  inner : Nat
  prime : Nat
  deriving DecidableEq, Repr

/-- R22: a curve record `(p, a, b)`, the curve `y^2 = x^3 + a*x + b` modulo `p`. -/
structure CurveRec where
  p : Nat
  a : Nat
  b : Nat
  deriving DecidableEq, Repr

/-- R24: a point value, with its own copy of the curve record it is bound to. -/
inductive PointVal where
  | ident (e : CurveRec)
  | affine (e : CurveRec) (x y : Nat)
  deriving DecidableEq, Repr

/-- The curve record a point is bound to: `curve(Pv)` of R176. -/
def PointVal.curve : PointVal → CurveRec
  | .ident e => e
  | .affine e _ _ => e

/-- What happens next at the edges of ECC-CORE (R3, R8, R280): the steps of the agents, in the order of
the agenda. An access names its physical address and its width in bytes. A write carries 32 bits of
data: the data of an access of another width is never looked at (R63). -/
inductive Event where
  /-- `MemRead(addr, bytes)` by the Host. -/
  | read (addr bytes : Nat)
  /-- `MemWrite(addr, bytes, value)` by the Host. -/
  | write (addr bytes : Nat) (value : Word)
  /-- The Engine has its turn: it commits, if a command is in flight (R70). -/
  | engine
  /-- The platform asserts the reset input (R280). -/
  | assertReset
  /-- The platform releases the reset input (R280). -/
  | releaseReset
  deriving DecidableEq, Repr

/-- What the last Host access got from the window. -/
inductive Response where
  /-- A read's 32-bit word. -/
  | readData (value : Word)
  /-- A write was accepted on the bus (dropped and ignored writes too, R64, R69). -/
  | writeDone
  /-- The bus error of R63: the Host's fault, not ECC-CORE's. -/
  | busError
  /-- The reset input is asserted: the window does not respond (R280). -/
  | noResponse
  deriving DecidableEq, Repr

/-- The state of an ECC-CORE, with its parameters and with what comes next at its edges. W-bit values
are naturals below `2^W` (`State.Inv` in Safety.lean; log 9), since `W` is a parameter. -/
structure State where
  /-- R5, R39: the parameters of the instance; no step changes them (log 1). -/
  cfg : Config
  /-- R20, R28: file F; `none` is an entry whose valid bit is 0 (log 8). -/
  fregs : List (Option Felt)
  /-- R22, R28: file C. -/
  cregs : List (Option CurveRec)
  /-- R24, R28: file P. -/
  pregs : List (Option PointVal)
  /-- R27, R28: file S. -/
  sregs : List (Option Nat)
  /-- R31: the test flag T. -/
  t : Bool
  /-- R36: the staging buffers. -/
  dataA : Nat
  dataB : Nat
  /-- R34: BUSY, DONE, ERR, STICKY_ERR, OVR and ECODE of STATUS. -/
  busy : Bool
  done : Bool
  err : Bool
  stickyErr : Bool
  ovr : Bool
  ecode : BitVec 8
  /-- R35, R37: CMD's read value; with BUSY = 1 it is the in-flight command. -/
  cmd : Word
  /-- R280: the reset input is asserted. -/
  resetLine : Bool
  /-- The coming events, the next one first (log 4). -/
  agenda : List Event
  /-- What the last Host access got (log 5). -/
  response : Option Response
  deriving DecidableEq, Repr

/-- Why a run stops with a fault. No command and no commit faults. -/
inductive Fault where
  /-- Raised by a Host read or write whose address is outside `BASE .. BASE + 0x3FF` (R60): the access is
  not ECC-CORE's and the spec gives it no response. SAFE: the model stops where the platform goes on
  (log 6). -/
  | outsideWindow (addr : Nat)
  deriving DecidableEq, Repr

/-- Why an instruction has no meaning. Every command of R92 has one, so no step is refused. -/
inductive Refusal where
  /-- Kept for a command without a meaning; no arm of exec answers with it. SAFE: it stops the run. -/
  | notModelled (mnemonic : String)
  deriving DecidableEq, Repr

/-- R38: the reset value of every piece of state of an instance with the given parameters; nothing
comes next and no access has been made (log 4, log 5). -/
def State.resetOf (cfg : Config) : State where
  cfg := cfg
  fregs := List.replicate cfg.nf none
  cregs := List.replicate cfg.nc none
  pregs := List.replicate cfg.np none
  sregs := List.replicate cfg.ns none
  t := false
  dataA := 0
  dataB := 0
  busy := false
  done := false
  err := false
  stickyErr := false
  ovr := false
  ecode := 0
  cmd := 0
  resetLine := false
  agenda := []
  response := none

/-- The machine right after reset, at R5's default parameters (log 3). -/
def State.reset : State := State.resetOf Config.default

end Sys2Proof.Machine
end

