-- ==== Sys2Proof/Machine/Ops.lean ====
section
/-! DEFINITION. The named operations over the state: register files, error codes, issue, the two ways a
command commits (R70, R261), reset (R38, R241, R280) and the fetch of the in-flight command. -/

namespace Sys2Proof.Machine

/-! ## Error kinds -/

/-- R250: the error kinds a command can raise. -/
inductive ErrorKind where
  | invalidElement
  | pointNotOnCurve
  | curveMismatch
  | divisionByZero
  | illegalCommand
  | uninitializedRegister
  | invalidModulus
  | noCoordinates
  deriving DecidableEq, Repr

/-- R250: the code of an error kind in ECODE. -/
def ErrorKind.code : ErrorKind → BitVec 8
  | .invalidElement => 0x01
  | .pointNotOnCurve => 0x02
  | .curveMismatch => 0x03
  | .divisionByZero => 0x04
  | .illegalCommand => 0x10
  | .uninitializedRegister => 0x11
  | .invalidModulus => 0x12
  | .noCoordinates => 0x13

/-! ## Register files -/

/-- R8, R28: read an entry of a register file. An entry whose valid bit is 0 raises
UninitializedRegister; so does an index that names no register, which no decoded command has (log 10). -/
def readReg {α : Type} (file : List (Option α)) (i : RegIdx) : Except ErrorKind α :=
  match file[i.toNat]? with
  | some (some v) => .ok v
  | _ => .error .uninitializedRegister

/-- R8, R28: write an entry of a register file and set its valid bit. An index that names no register,
which no decoded command has, writes nothing (log 10). -/
def writeReg {α : Type} (file : List (Option α)) (i : RegIdx) (v : α) : List (Option α) :=
  file.set i.toNat (some v)

/-- `F[i]` of R8. -/
def State.readF (s : State) (i : RegIdx) : Except ErrorKind Felt := readReg s.fregs i

/-- `C[i]` of R8. -/
def State.readC (s : State) (i : RegIdx) : Except ErrorKind CurveRec := readReg s.cregs i

/-- `P[i]` of R8. -/
def State.readP (s : State) (i : RegIdx) : Except ErrorKind PointVal := readReg s.pregs i

/-- `S[i]` of R8: the W-bit pattern as an unsigned integer. -/
def State.readS (s : State) (i : RegIdx) : Except ErrorKind Nat := readReg s.sregs i

/-- `F[i] <- v` of R8. -/
def State.writeF (s : State) (i : RegIdx) (v : Felt) : State :=
  { s with fregs := writeReg s.fregs i v }

/-- `C[i] <- v` of R8. -/
def State.writeC (s : State) (i : RegIdx) (v : CurveRec) : State :=
  { s with cregs := writeReg s.cregs i v }

/-- `P[i] <- v` of R8. -/
def State.writeP (s : State) (i : RegIdx) (v : PointVal) : State :=
  { s with pregs := writeReg s.pregs i v }

/-- `S[i] <- v` of R8. -/
def State.writeS (s : State) (i : RegIdx) (v : Nat) : State :=
  { s with sregs := writeReg s.sregs i v }

/-- `DATA_A <- v` of R8. -/
def State.setDataA (s : State) (v : Nat) : State := { s with dataA := v }

/-- `DATA_B <- v` of R8. -/
def State.setDataB (s : State) (v : Nat) : State := { s with dataB := v }

/-- The valid bit of the register an operand names (R28). -/
def State.isValid (s : State) (o : RegClass × RegIdx) : Bool :=
  match o.1 with
  | .F => (s.readF o.2).isOk
  | .C => (s.readC o.2).isOk
  | .P => (s.readP o.2).isOk
  | .S => (s.readS o.2).isOk

/-! ## Issue and commit -/

/-- R70 Issue: the word goes in flight. -/
def issue (w : Word) (s : State) : State :=
  { s with cmd := w, busy := true, done := false, err := false, ecode := 0 }

/-- R70 Commit of a command without error, after its writes. -/
def commitDone (s : State) : State :=
  { s with busy := false, done := true }

/-- R261, R70: error entry, the commit of a command that raised `e`. Nothing outside STATUS changes
(R71). -/
def errorEntry (e : ErrorKind) (s : State) : State :=
  { s with err := true, stickyErr := true, ecode := e.code, busy := false, done := true }

/-- R70, R71: commit what `Execute` gave on the state `s`: either an error, and nothing of the command is
written, or the state with all of the command's writes. -/
def commit (s : State) (result : Except ErrorKind State) :
    Host.Outcome State Fault Refusal :=
  match result with
  | .error e => .next (errorEntry e s)
  | .ok s' => .next (commitDone s')

/-- R95: the command in flight, or none when its word is illegal. -/
def fetch (s : State) : Option Instr := decode s.cfg s.cmd

/-- R70, R280: the Engine's commit is enabled when BUSY = 1, and not while reset is asserted. -/
def engineEnabled (s : State) : Bool := s.busy && !s.resetLine

/-! ## Reset -/

/-- R38: every piece of ECC-CORE's state takes its reset value. The parameters (R282), the reset input,
the agenda and the last response are not ECC-CORE's state and stay. -/
def resetDevice (s : State) : State :=
  { State.resetOf s.cfg with
    resetLine := s.resetLine, agenda := s.agenda, response := s.response }

/-- R280: the platform asserts the reset input (log 7). -/
def assertReset (s : State) : State := { resetDevice s with resetLine := true }

/-- R280: the platform releases the reset input; a line that is not asserted is not released. -/
def releaseReset (s : State) : State :=
  if s.resetLine then { resetDevice s with resetLine := false } else s

/-! ## The agenda -/

/-- The state once its next event has been taken from the agenda. -/
def popEvent (s : State) : State := { s with agenda := s.agenda.tail }

/-- The next event: the agenda's first, and with an empty agenda the Engine's turn (log 4). -/
def nextEvent (s : State) : Event := s.agenda.headD .engine

end Sys2Proof.Machine
end

