-- ==== Sys2Proof/Machine/Flags.lean ====
section
/-! DEFINITION. The flag T (R31), what FEQ and PEQ compare, and the words of ID and STATUS. -/

namespace Sys2Proof.Machine

/-- `T <- b` of R8. -/
def State.setT (s : State) (b : Bool) : State := { s with t := b }

/-- R138: the comparison of two field elements of one prime. -/
def feltEq (a b : Felt) : Bool := decide (a.inner = b.inner)

/-- R26, R177: the comparison of two points of one curve. -/
def pointEq : PointVal → PointVal → Bool
  | .ident _, .ident _ => true
  | .affine _ x1 y1, .affine _ x2 y2 => decide (x1 = x2 ∧ y1 = y2)
  | _, _ => false

/-- R34: the word a read of STATUS returns. -/
def State.statusWord (s : State) : Word :=
  0#16 ++ s.ecode ++ 0#2 ++ BitVec.ofBool s.ovr ++ BitVec.ofBool s.stickyErr ++
    BitVec.ofBool s.t ++ BitVec.ofBool s.err ++ BitVec.ofBool s.done ++ BitVec.ofBool s.busy

/-- R32: the word a read of ID returns. -/
def idWord (cfg : Config) : Word :=
  BitVec.ofNat 4 (cfg.ns - 1) ++ BitVec.ofNat 4 (cfg.nc - 1) ++ BitVec.ofNat 4 (cfg.np - 1) ++
    BitVec.ofNat 4 (cfg.nf - 1) ++ BitVec.ofNat 8 cfg.words ++ 0x01#8

end Sys2Proof.Machine
end

