-- ==== Sys2Proof/Machine/Arith.lean ====
section
/-! DEFINITION. The field functions of 40_field.md section 1 (R120 to R128), on residues and on field
elements. -/

namespace Sys2Proof.Machine

/-- R120: `Reduce(v, p) = v mod p`. -/
def reduce (v p : Nat) : Nat := v % p

/-- R122 on residues: `Reduce(a + b, p)`. -/
def addMod (p a b : Nat) : Nat := reduce (a + b) p

/-- R123 on residues: `a - b` if `a >= b`, else `p - (b - a)`. -/
def subMod (p a b : Nat) : Nat := if b ≤ a then a - b else p - (b - a)

/-- R124 on residues: `Reduce(a * b, p)`. -/
def mulMod (p a b : Nat) : Nat := reduce (a * b) p

/-- Square-and-multiply, least significant bit first: `acc * x^e mod p` for an exponent of at most
`fuel` bits. -/
def powModLoop (p : Nat) : (fuel x acc e : Nat) → Nat
  | 0, _, acc, _ => acc
  | fuel + 1, x, acc, e =>
    if e = 0 then acc
    else powModLoop p fuel (mulMod p x x) (if e % 2 = 1 then mulMod p acc x else acc) (e / 2)

/-- `Reduce(x^e, p)` with a reduction after every multiplication (R9, R125), and `x^0 = 1` (R7). That it
is `x ^ e % p` is `powMod_eq` in Laws/Arith.lean (log 12). -/
def powMod (p x e : Nat) : Nat := powModLoop p (e.log2 + 1) (reduce x p) (reduce 1 p) e

/-- R125: the value `Reduce(b^(p-2), p)`. -/
def invMod (p b : Nat) : Nat := powMod p b (p - 2)

/-- R126: the value `Reduce(a * FInv(b), p)`, as the group law divides by a nonzero residue (R175). -/
def divMod (p a b : Nat) : Nat := mulMod p a (invMod p b)

/-- R122. -/
def fAdd (a b : Felt) : Felt := ⟨addMod a.prime a.inner b.inner, a.prime⟩

/-- R123. -/
def fSub (a b : Felt) : Felt := ⟨subMod a.prime a.inner b.inner, a.prime⟩

/-- R124. -/
def fMul (a b : Felt) : Felt := ⟨mulMod a.prime a.inner b.inner, a.prime⟩

/-- R125: the inverse; for `b = 0` as DIV0_MODE says. -/
def fInv (mode : Div0Mode) (b : Felt) : Except ErrorKind Felt :=
  if b.inner ≠ 0 then .ok ⟨invMod b.prime b.inner, b.prime⟩
  else
    match mode with
    | .fault => .error .divisionByZero
    | .referenceFormula => .ok ⟨invMod b.prime b.inner, b.prime⟩

/-- R126. -/
def fDiv (mode : Div0Mode) (a b : Felt) : Except ErrorKind Felt :=
  match fInv mode b with
  | .error e => .error e
  | .ok i => .ok ⟨mulMod a.prime a.inner i.inner, a.prime⟩

/-- R127: the exponent FPOWU uses, by POWU_REDUCTION. -/
def reduceExponent (mode : PowuReduction) (p e : Nat) : Nat :=
  match mode with
  | .modP => e % p
  | .modPMinus1 => e % (p - 1)
  | .unreduced => e

/-- R127. -/
def fPowU (mode : PowuReduction) (x : Felt) (e : Nat) : Felt :=
  ⟨powMod x.prime x.inner (reduceExponent mode x.prime e), x.prime⟩

/-- R128: for `e < 0`, `E = (-|e|) mod (p - 1)`. -/
def negExponent (p : Nat) (e : Int) : Nat := (e % ((p : Int) - 1)).toNat

/-- R128. -/
def fPowS (mode : Div0Mode) (x : Felt) (e : Int) : Except ErrorKind Felt :=
  if 0 < e then .ok ⟨powMod x.prime x.inner e.toNat, x.prime⟩
  else if e = 0 then .ok ⟨1, x.prime⟩
  else if x.inner = 0 ∧ mode = .fault then .error .divisionByZero
  else .ok ⟨powMod x.prime x.inner (negExponent x.prime e), x.prime⟩

end Sys2Proof.Machine
end

