-- ==== Sys2Proof/Machine/Group.lean ====
section
/-! DEFINITION. The on-curve predicate (R171), the group law (R175) and the two scalar multiplications
(R212, R213). -/

namespace Sys2Proof.Machine

/-- R171: both sides are exact integers before reduction. -/
def onCurve (e : CurveRec) (x y : Nat) : Bool :=
  decide (reduce (y * y) e.p = reduce (x * x * x + e.a * x + e.b) e.p)

/-- R175 rules 4 and 5: the third coordinate `y3 = s*(x1 - x3) - y1` of a sum with slope `s`. -/
def thirdY (p s x1 y1 x3 : Nat) : Nat := subMod p (mulMod p s (subMod p x1 x3)) y1

/-- R175 rule 4: the slope of the tangent, `(3*x1^2 + a) / (2*y1)`. -/
def tangentSlope (e : CurveRec) (x1 y1 : Nat) : Nat :=
  divMod e.p (addMod e.p (mulMod e.p 3 (mulMod e.p x1 x1)) e.a) (mulMod e.p 2 y1)

/-- R175 rule 4: doubling, with `x3 = s^2 - 2*x1`. -/
def doublePoint (e : CurveRec) (x1 y1 : Nat) : PointVal :=
  let s := tangentSlope e x1 y1
  let x3 := subMod e.p (mulMod e.p s s) (mulMod e.p 2 x1)
  .affine e x3 (thirdY e.p s x1 y1 x3)

/-- R175 rule 5: the slope of the chord, `(y2 - y1) / (x2 - x1)`. -/
def chordSlope (e : CurveRec) (x1 y1 x2 y2 : Nat) : Nat :=
  divMod e.p (subMod e.p y2 y1) (subMod e.p x2 x1)

/-- R175 rule 5: chord, with `x3 = s^2 - x1 - x2`. -/
def chordPoint (e : CurveRec) (x1 y1 x2 y2 : Nat) : PointVal :=
  let s := chordSlope e x1 y1 x2 y2
  let x3 := subMod e.p (subMod e.p (mulMod e.p s s) x1) x2
  .affine e x3 (thirdY e.p s x1 y1 x3)

/-- R175 `PAddV`: the first rule that applies gives the sum of two matching points. -/
def pointAdd : PointVal → PointVal → PointVal
  | .ident _, q => q
  | .affine e x1 y1, .ident _ => .affine e x1 y1
  | .affine e x1 y1, .affine _ x2 y2 =>
    if x1 = x2 ∧ (y1 ≠ y2 ∨ reduce (y1 + y2) e.p = 0) then .ident e
    else if x1 = x2 then doublePoint e x1 y1
    else chordPoint e x1 y1 x2 y2

/-- R212: `acc <- PAddV(acc, P)`, repeated. -/
def addRepeatedly (P : PointVal) : (times : Nat) → (acc : PointVal) → PointVal
  | 0, acc => acc
  | times + 1, acc => addRepeatedly P times (pointAdd acc P)

/-- R212 `MulNaive`. -/
def mulNaive (P : PointVal) (k : Nat) : PointVal :=
  if k = 0 then .ident P.curve else addRepeatedly P (k - 1) P

/-- R213: the loop of `MulBinary`, while the remaining scalar is not 0; it runs at most `fuel` times. -/
def doubleAndAdd : (fuel : Nat) → (result current : PointVal) → (c : Nat) → PointVal
  | 0, result, _, _ => result
  | fuel + 1, result, current, c =>
    if c = 0 then result
    else
      doubleAndAdd fuel (if c % 2 = 1 then pointAdd result current else result)
        (pointAdd current current) (c / 2)

/-- R213 `MulBinary`: the loop ends by itself within `bitlength(k)` rounds (log 13). -/
def mulBinary (P : PointVal) (k : Nat) : PointVal :=
  doubleAndAdd (k.log2 + 1) (.ident P.curve) P k

end Sys2Proof.Machine
end

