-- ==== Sys2Proof/Machine/Operands.lean ====
section
/-! DEFINITION. The operand forms of the commands: every source is read, in the order rs1, rs2, rs3
(R251), before anything else is checked (R260), and every check of a form is here. -/

namespace Sys2Proof.Machine

/-- R7 `signed_W`: the two's-complement value of a W-bit pattern. -/
def signedOf (w v : Nat) : Int := if v.testBit (w - 1) then (v : Int) - 2 ^ w else v

/-- R121, R131 to R134, R138, R170: two field elements of one prime, else CurveMismatch. -/
def twoFelts (s : State) (rs1 rs2 : RegIdx) : Except ErrorKind (Felt × Felt) := do
  let a ← s.readF rs1
  let b ← s.readF rs2
  if a.prime = b.prime then .ok (a, b) else .error .curveMismatch

/-- R136: a base and an unsigned exponent. -/
def feltAndUnsigned (s : State) (rs1 rs2 : RegIdx) : Except ErrorKind (Felt × Nat) := do
  let x ← s.readF rs1
  let e ← s.readS rs2
  .ok (x, e)

/-- R137: a base and a signed exponent. -/
def feltAndSigned (s : State) (rs1 rs2 : RegIdx) : Except ErrorKind (Felt × Int) := do
  let x ← s.readF rs1
  let e ← s.readS rs2
  .ok (x, signedOf s.cfg.w e)

/-- R172: a curve and the coordinates of a point over the curve's prime, else CurveMismatch. -/
def curveAndCoordinates (s : State) (rs1 rs2 rs3 : RegIdx) :
    Except ErrorKind (CurveRec × Nat × Nat) := do
  let e ← s.readC rs1
  let x ← s.readF rs2
  let y ← s.readF rs3
  if x.prime = e.p ∧ y.prime = e.p then .ok (e, x.inner, y.inner) else .error .curveMismatch

/-- R174, R176, R177: two points of one curve (R23), else CurveMismatch. -/
def twoPoints (s : State) (rs1 rs2 : RegIdx) : Except ErrorKind (PointVal × PointVal) := do
  let p ← s.readP rs1
  let q ← s.readP rs2
  if p.curve = q.curve then .ok (p, q) else .error .curveMismatch

/-- R214, R215: a point and an unsigned scalar. -/
def pointAndScalar (s : State) (rs1 rs2 : RegIdx) : Except ErrorKind (PointVal × Nat) := do
  let p ← s.readP rs1
  let k ← s.readS rs2
  .ok (p, k)

/-- R178, R179: the coordinates of an affine point with its prime, else NoCoordinates. -/
def coordinates (p : PointVal) : Except ErrorKind (Felt × Felt) :=
  match p with
  | .ident _ => .error .noCoordinates
  | .affine e x y => .ok (⟨x, e.p⟩, ⟨y, e.p⟩)

/-- R129: a new field element from raw values; the modulus is checked first. -/
def newFelt (inner prime : Nat) : Except ErrorKind Felt :=
  if prime < 2 then .error .invalidModulus
  else if prime ≤ inner then .error .invalidElement
  else .ok ⟨inner, prime⟩

end Sys2Proof.Machine
end

