-- ==== Sys2Proof/Machine/Curve.lean ====
section
/-! DEFINITION. The meanings of the curve and point commands (41_curve_point.md). -/

namespace Sys2Proof.Machine

/-- CNEW, R170: no check beyond the equal primes. -/
def execCnew (rd rs1 rs2 : RegIdx) (s : State) : Host.Outcome State Fault Refusal :=
  commit s do
    let (a, b) ← twoFelts s rs1 rs2
    .ok (s.writeC rd ⟨a.prime, a.inner, b.inner⟩)

/-- PNEW, R172: a validated affine point. -/
def execPnew (rd rs1 rs2 rs3 : RegIdx) (s : State) : Host.Outcome State Fault Refusal :=
  commit s do
    let (e, x, y) ← curveAndCoordinates s rs1 rs2 rs3
    if onCurve e x y then .ok (s.writeP rd (.affine e x y)) else .error .pointNotOnCurve

/-- PID, R173. -/
def execPid (rd rs1 : RegIdx) (s : State) : Host.Outcome State Fault Refusal :=
  commit s do
    let e ← s.readC rs1
    .ok (s.writeP rd (.ident e))

/-- PADD, R176: the result is not validated again. -/
def execPadd (rd rs1 rs2 : RegIdx) (s : State) : Host.Outcome State Fault Refusal :=
  commit s do
    let (p, q) ← twoPoints s rs1 rs2
    .ok (s.writeP rd (pointAdd p q))

/-- PEQ, R177. -/
def execPeq (rs1 rs2 : RegIdx) (s : State) : Host.Outcome State Fault Refusal :=
  commit s do
    let (p, q) ← twoPoints s rs1 rs2
    .ok (s.setT (pointEq p q))

/-- PGETX, R178. -/
def execPgetx (rd rs1 : RegIdx) (s : State) : Host.Outcome State Fault Refusal :=
  commit s do
    let p ← s.readP rs1
    let xy ← coordinates p
    .ok (s.writeF rd xy.1)

/-- PGETY, R179. -/
def execPgety (rd rs1 : RegIdx) (s : State) : Host.Outcome State Fault Refusal :=
  commit s do
    let p ← s.readP rs1
    let xy ← coordinates p
    .ok (s.writeF rd xy.2)

end Sys2Proof.Machine
end

