-- ==== Sys2Proof/Machine/Field.lean ====
section
/-! DEFINITION. The meanings of the field commands (40_field.md section 2). -/

namespace Sys2Proof.Machine

/-- FNEW, R129: a field element from DATA_A and DATA_B. -/
def execFnew (rd : RegIdx) (s : State) : Host.Outcome State Fault Refusal :=
  commit s do
    let v ← newFelt s.dataA s.dataB
    .ok (s.writeF rd v)

/-- FRD, R130: residue and prime to DATA_A and DATA_B. -/
def execFrd (rs1 : RegIdx) (s : State) : Host.Outcome State Fault Refusal :=
  commit s do
    let v ← s.readF rs1
    .ok ((s.setDataA v.inner).setDataB v.prime)

/-- FADD, R131. -/
def execFadd (rd rs1 rs2 : RegIdx) (s : State) : Host.Outcome State Fault Refusal :=
  commit s do
    let (a, b) ← twoFelts s rs1 rs2
    .ok (s.writeF rd (fAdd a b))

/-- FSUB, R132. -/
def execFsub (rd rs1 rs2 : RegIdx) (s : State) : Host.Outcome State Fault Refusal :=
  commit s do
    let (a, b) ← twoFelts s rs1 rs2
    .ok (s.writeF rd (fSub a b))

/-- FMUL, R133. -/
def execFmul (rd rs1 rs2 : RegIdx) (s : State) : Host.Outcome State Fault Refusal :=
  commit s do
    let (a, b) ← twoFelts s rs1 rs2
    .ok (s.writeF rd (fMul a b))

/-- FDIV, R134: `rs1` is the dividend. -/
def execFdiv (rd rs1 rs2 : RegIdx) (s : State) : Host.Outcome State Fault Refusal :=
  commit s do
    let (a, b) ← twoFelts s rs1 rs2
    let q ← fDiv s.cfg.div0Mode a b
    .ok (s.writeF rd q)

/-- FINV, R135. -/
def execFinv (rd rs1 : RegIdx) (s : State) : Host.Outcome State Fault Refusal :=
  commit s do
    let a ← s.readF rs1
    let i ← fInv s.cfg.div0Mode a
    .ok (s.writeF rd i)

/-- FPOWU, R136. -/
def execFpowu (rd rs1 rs2 : RegIdx) (s : State) : Host.Outcome State Fault Refusal :=
  commit s do
    let (x, e) ← feltAndUnsigned s rs1 rs2
    .ok (s.writeF rd (fPowU s.cfg.powuReduction x e))

/-- FPOWS, R137. -/
def execFpows (rd rs1 rs2 : RegIdx) (s : State) : Host.Outcome State Fault Refusal :=
  commit s do
    let (x, e) ← feltAndSigned s rs1 rs2
    let r ← fPowS s.cfg.div0Mode x e
    .ok (s.writeF rd r)

/-- FEQ, R138. -/
def execFeq (rs1 rs2 : RegIdx) (s : State) : Host.Outcome State Fault Refusal :=
  commit s do
    let (a, b) ← twoFelts s rs1 rs2
    .ok (s.setT (feltEq a b))

end Sys2Proof.Machine
end

