-- ==== Sys2Proof/Machine/Scalar.lean ====
section
/-! DEFINITION. The meanings of the scalar and scalar-multiplication commands (42_scalar_mult.md). -/

namespace Sys2Proof.Machine

/-- SLD, R210: the W-bit pattern of DATA_A, unchanged. -/
def execSld (rd : RegIdx) (s : State) : Host.Outcome State Fault Refusal :=
  commit s (.ok (s.writeS rd s.dataA))

/-- SST, R211: DATA_B is not written. -/
def execSst (rs1 : RegIdx) (s : State) : Host.Outcome State Fault Refusal :=
  commit s do
    let k ← s.readS rs1
    .ok (s.setDataA k)

/-- PMULN, R214: the naive algorithm. -/
def execPmuln (rd rs1 rs2 : RegIdx) (s : State) : Host.Outcome State Fault Refusal :=
  commit s do
    let (p, k) ← pointAndScalar s rs1 rs2
    .ok (s.writeP rd (mulNaive p k))

/-- PMULB, R215: the binary-expansion algorithm. -/
def execPmulb (rd rs1 rs2 : RegIdx) (s : State) : Host.Outcome State Fault Refusal :=
  commit s do
    let (p, k) ← pointAndScalar s rs1 rs2
    .ok (s.writeP rd (mulBinary p k))

end Sys2Proof.Machine
end

