-- ==== Sys2Proof/Machine/System.lean ====
section
/-! DEFINITION. The system command (R240). -/

namespace Sys2Proof.Machine

/-- NOP, R240: it commits and does nothing else. -/
def execNop (s : State) : Host.Outcome State Fault Refusal :=
  commit s (.ok s)

end Sys2Proof.Machine
end

