-- ==== Sys2Proof/Machine/Dispatch.lean ====
section
/-! DEFINITION. exec: one arm per command of R92, each a direct call of its meaning. -/

namespace Sys2Proof.Machine

/-- Execute and commit a command (R70); it always answers a next state. -/
def exec (i : Instr) (s : State) : Host.Outcome State Fault Refusal :=
  match i with
  | .nop => Sys2Proof.Machine.execNop s
  | .fnew rd => Sys2Proof.Machine.execFnew rd s
  | .frd rs1 => Sys2Proof.Machine.execFrd rs1 s
  | .fadd rd rs1 rs2 => Sys2Proof.Machine.execFadd rd rs1 rs2 s
  | .fsub rd rs1 rs2 => Sys2Proof.Machine.execFsub rd rs1 rs2 s
  | .fmul rd rs1 rs2 => Sys2Proof.Machine.execFmul rd rs1 rs2 s
  | .fdiv rd rs1 rs2 => Sys2Proof.Machine.execFdiv rd rs1 rs2 s
  | .finv rd rs1 => Sys2Proof.Machine.execFinv rd rs1 s
  | .fpowu rd rs1 rs2 => Sys2Proof.Machine.execFpowu rd rs1 rs2 s
  | .fpows rd rs1 rs2 => Sys2Proof.Machine.execFpows rd rs1 rs2 s
  | .feq rs1 rs2 => Sys2Proof.Machine.execFeq rs1 rs2 s
  | .sld rd => Sys2Proof.Machine.execSld rd s
  | .sst rs1 => Sys2Proof.Machine.execSst rs1 s
  | .cnew rd rs1 rs2 => Sys2Proof.Machine.execCnew rd rs1 rs2 s
  | .pnew rd rs1 rs2 rs3 => Sys2Proof.Machine.execPnew rd rs1 rs2 rs3 s
  | .pid rd rs1 => Sys2Proof.Machine.execPid rd rs1 s
  | .padd rd rs1 rs2 => Sys2Proof.Machine.execPadd rd rs1 rs2 s
  | .peq rs1 rs2 => Sys2Proof.Machine.execPeq rs1 rs2 s
  | .pgetx rd rs1 => Sys2Proof.Machine.execPgetx rd rs1 s
  | .pgety rd rs1 => Sys2Proof.Machine.execPgety rd rs1 s
  | .pmuln rd rs1 rs2 => Sys2Proof.Machine.execPmuln rd rs1 rs2 s
  | .pmulb rd rs1 rs2 => Sys2Proof.Machine.execPmulb rd rs1 rs2 s

end Sys2Proof.Machine
end

