-- ==== Sys2Proof/Machine/Window.lean ====
section
/-! DEFINITION. The register window (R60 to R69): its map, the words of the staging buffers, and what a
Host read or write does. -/

namespace Sys2Proof.Machine

/-- R36, R66: word `i` of a W-bit value, bits `[32*i+31 : 32*i]`. -/
def wordOf (v i : Nat) : Word := BitVec.ofNat 32 (v / 2 ^ (32 * i))

/-- R36, R66: the W-bit value with word `i` replaced. -/
def setWord (v i : Nat) (x : Word) : Nat :=
  v % 2 ^ (32 * i) + 2 ^ (32 * i) * (x.toNat + 2 ^ 32 * (v / 2 ^ (32 * (i + 1))))

/-- R65: byte `j` of a window word on the Host bus, bits `[8*j+7 : 8*j]`. -/
def byteOf (x : Word) (j : Nat) : Byte := x.extractLsb' (8 * j) 8

/-- R61: what lies at an aligned offset of the window. -/
inductive WindowReg where
  | id
  | ctrl
  | status
  | cmd
  | dataA (i : Nat)
  | dataB (i : Nat)
  | reserved
  deriving DecidableEq, Repr

/-- R61: the register map. -/
def windowReg (cfg : Config) (off : Nat) : WindowReg :=
  if off = 0x000 then .id
  else if off = 0x004 then .ctrl
  else if off = 0x008 then .status
  else if off = 0x00C then .cmd
  else if 0x100 ≤ off ∧ off < 0x100 + 4 * cfg.words then .dataA ((off - 0x100) / 4)
  else if 0x200 ≤ off ∧ off < 0x200 + 4 * cfg.words then .dataB ((off - 0x200) / 4)
  else .reserved

/-- The word a read of an aligned offset returns (R32 to R36, R64). -/
def readWindow (s : State) (off : Nat) : Word :=
  match windowReg s.cfg off with
  | .id => idWord s.cfg
  | .ctrl => 0
  | .status => s.statusWord
  | .cmd => s.cmd
  | .dataA i => wordOf s.dataA i
  | .dataB i => wordOf s.dataB i
  | .reserved => 0

/-- R65: the byte at an offset of the window, as byte `off mod 4` of the word that holds it. -/
def windowByte (s : State) (off : Nat) : Byte := byteOf (readWindow s (off - off % 4)) (off % 4)

/-- R33, R241: a write to CTRL. -/
def writeCtrl (s : State) (v : Word) : State :=
  if v.getLsbD 0 then resetDevice s else s

/-- R34, R242: a write to STATUS clears the W1C bits written as 1. -/
def writeStatus (s : State) (v : Word) : State :=
  { s with stickyErr := s.stickyErr && !v.getLsbD 4, ovr := s.ovr && !v.getLsbD 5 }

/-- R69: a write dropped while BUSY = 1. -/
def dropWrite (s : State) : State := { s with ovr := true }

/-- R35, R69, R70: a write to CMD. -/
def writeCmd (s : State) (v : Word) : State :=
  if s.busy then dropWrite s else issue v s

/-- R36, R69: a write to word `i` of DATA_A. -/
def writeDataA (s : State) (i : Nat) (v : Word) : State :=
  if s.busy then dropWrite s else s.setDataA (setWord s.dataA i v)

/-- R36, R69: a write to word `i` of DATA_B. -/
def writeDataB (s : State) (i : Nat) (v : Word) : State :=
  if s.busy then dropWrite s else s.setDataB (setWord s.dataB i v)

/-- What a write of an aligned offset does (R67): ID and reserved offsets ignore it (R32, R64). -/
def writeWindow (s : State) (off : Nat) (v : Word) : State :=
  match windowReg s.cfg off with
  | .id => s
  | .ctrl => writeCtrl s v
  | .status => writeStatus s v
  | .cmd => writeCmd s v
  | .dataA i => writeDataA s i v
  | .dataB i => writeDataB s i v
  | .reserved => s

/-- R60: the address lies in the 1 KiB window at `BASE`. -/
def inWindow (cfg : Config) (addr : Nat) : Bool :=
  decide (cfg.base ≤ addr ∧ addr < cfg.base + 0x400)

/-- R62: a 32-bit access at an offset that is a multiple of 4. -/
def acceptedAccess (cfg : Config) (addr bytes : Nat) : Bool :=
  decide (bytes = 4 ∧ (addr - cfg.base) % 4 = 0)

/-- The Host gets a response; nothing of ECC-CORE changes. -/
def respond (s : State) (r : Response) : State := { s with response := some r }

/-- R63: what a read that is not accepted answers. -/
def badReadResponse : BadAccessMode → Response
  | .busError => .busError
  | .ignore => .readData 0

/-- R63: what a write that is not accepted answers. -/
def badWriteResponse : BadAccessMode → Response
  | .busError => .busError
  | .ignore => .writeDone

/-- `MemRead(addr, bytes)` of R8 by R60 to R68: no side effect at any offset (R67), and no response while
reset is asserted (R280). -/
def hostRead (addr bytes : Nat) (s : State) : Host.Outcome State Fault Refusal :=
  if inWindow s.cfg addr then
    if s.resetLine then .next (respond s .noResponse)
    else if acceptedAccess s.cfg addr bytes then
      .next (respond s (.readData (readWindow s (addr - s.cfg.base))))
    else .next (respond s (badReadResponse s.cfg.badAccessMode))
  else .fault (.outsideWindow addr)

/-- `MemWrite(addr, bytes, v)` of R8 by R60 to R69; no response while reset is asserted (R280). -/
def hostWrite (addr bytes : Nat) (v : Word) (s : State) : Host.Outcome State Fault Refusal :=
  if inWindow s.cfg addr then
    if s.resetLine then .next (respond s .noResponse)
    else if acceptedAccess s.cfg addr bytes then
      .next (respond (writeWindow s (addr - s.cfg.base) v) .writeDone)
    else .next (respond s (badWriteResponse s.cfg.badAccessMode))
  else .fault (.outsideWindow addr)

end Sys2Proof.Machine
end

