-- ==== Sys2Proof/Machine/Step.lean ====
section
/-! DEFINITION. One step: the next event of the agenda, or the Engine's turn when the agenda is empty. -/

namespace Sys2Proof.Machine

/-- R70: the Engine's turn. The command in flight executes and commits; an illegal word commits with
IllegalCommand (R95, R252). With nothing in flight the Engine does nothing (R271). -/
def engineTurn (s : State) : Host.Outcome State Fault Refusal :=
  if engineEnabled s then
    match fetch s with
    | some i => exec i s
    | none => commit s (.error .illegalCommand)
  else .next s

/-- What an event does, once it has been taken from the agenda. -/
def runEvent (e : Event) (s : State) : Host.Outcome State Fault Refusal :=
  match e with
  | .read addr bytes => hostRead addr bytes s
  | .write addr bytes v => hostWrite addr bytes v s
  | .engine => engineTurn s
  | .assertReset => .next (assertReset s)
  | .releaseReset => .next (releaseReset s)

/-- One step of ECC-CORE and what surrounds it (R3, R72). -/
def step (s : State) : Host.Outcome State Fault Refusal :=
  runEvent (nextEvent s) (popEvent s)

/-- The state in which the given command word has been issued (R70) and the Engine has the next turn, so
that the very next step runs exactly that command. It stands for the Host's CMD write (log 4). The agenda
is left as it is where it gives the Engine the next turn already. -/
def State.withFetchWord (s : State) (nbits w : Nat) : State :=
  { issue (BitVec.ofNat 32 (w % 2 ^ nbits)) s with
    resetLine := false
    agenda := if nextEvent s = .engine then s.agenda else .engine :: s.agenda }

end Sys2Proof.Machine
end

