-- ==== Sys2Proof/Safety.lean ====
section
/-! DEFINITION. The invariants of ECC-CORE (R21, R22, R24, R25, R27, R34, R36) and the notions claims use. -/

namespace Sys2Proof.Machine

/-- R21: `2 <= prime < 2^W` and `0 <= inner < prime`. -/
abbrev Felt.Ok (w : Nat) (v : Felt) : Prop :=
  2 ≤ v.prime ∧ v.prime < 2 ^ w ∧ v.inner < v.prime

/-- R22: `2 <= p < 2^W`, `0 <= a < p`, `0 <= b < p`. -/
abbrev CurveRec.Ok (w : Nat) (e : CurveRec) : Prop :=
  2 ≤ e.p ∧ e.p < 2 ^ w ∧ e.a < e.p ∧ e.b < e.p

/-- R24: the coordinates of an affine point are residues modulo its curve's `p`. -/
abbrev PointVal.Reduced : PointVal → Prop
  | .ident _ => True
  | .affine e x y => x < e.p ∧ y < e.p

/-- R24: a point value as a P register holds it. -/
abbrev PointVal.Ok (w : Nat) (v : PointVal) : Prop := v.curve.Ok w ∧ v.Reduced

/-- R25, R181: the Identity, or an affine point that satisfies its curve's equation. -/
abbrev PointVal.OnItsCurve : PointVal → Prop
  | .ident _ => True
  | .affine e x y => onCurve e x y = true

/-- R180: `4*a^3 + 27*b^2 != 0 mod p`. -/
abbrev CurveRec.NonSingular (e : CurveRec) : Prop :=
  (4 * e.a ^ 3 + 27 * e.b ^ 2) % e.p ≠ 0

/-- R34, R250: the legal combinations of BUSY, DONE, ERR and ECODE. -/
abbrev State.StatusLegal (s : State) : Prop :=
  (s.done = false ∧ s.err = false ∧ s.ecode = 0) ∨
  (s.busy = false ∧ s.done = true ∧ s.err = false ∧ s.ecode = 0) ∨
  (s.busy = false ∧ s.done = true ∧ s.err = true ∧ ∃ e : ErrorKind, s.ecode = e.code)

/-- The invariant every step keeps: legal parameters (R5), the register counts (R39), every valid entry
as its rule says (R21, R22, R24, R27), the staging buffers W bits wide (R36), a legal status (R34), and
nothing in flight while reset is asserted (R280). -/
structure State.Inv (s : State) : Prop where
  legal : s.cfg.Legal
  countF : s.fregs.length = s.cfg.nf
  countC : s.cregs.length = s.cfg.nc
  countP : s.pregs.length = s.cfg.np
  countS : s.sregs.length = s.cfg.ns
  felts : ∀ v, some v ∈ s.fregs → v.Ok s.cfg.w
  curves : ∀ e, some e ∈ s.cregs → e.Ok s.cfg.w
  points : ∀ v, some v ∈ s.pregs → v.Ok s.cfg.w
  scalars : ∀ k, some k ∈ s.sregs → k < 2 ^ s.cfg.w
  bufferA : s.dataA < 2 ^ s.cfg.w
  bufferB : s.dataB < 2 ^ s.cfg.w
  status : s.StatusLegal
  quiet : s.resetLine = true → s.busy = false

/-- R25, R181: every point register over a prime modulus holds the Identity or a point of its curve. -/
def State.PointsOnCurve (s : State) : Prop :=
  ∀ v, some v ∈ s.pregs → v.curve.p.Prime → v.OnItsCurve

/-- `fi` is valid and holds `v` (R28). -/
abbrev State.HasF (s : State) (i : RegIdx) (v : Felt) : Prop := s.fregs[i.toNat]? = some (some v)

/-- `ci` is valid and holds `v` (R28). -/
abbrev State.HasC (s : State) (i : RegIdx) (v : CurveRec) : Prop := s.cregs[i.toNat]? = some (some v)

/-- `pi` is valid and holds `v` (R28). -/
abbrev State.HasP (s : State) (i : RegIdx) (v : PointVal) : Prop := s.pregs[i.toNat]? = some (some v)

/-- `si` is valid and holds the pattern `k` (R28). -/
abbrev State.HasS (s : State) (i : RegIdx) (k : Nat) : Prop := s.sregs[i.toNat]? = some (some k)

/-- An event is no Host access outside the window (R60). -/
def Event.InWindow (cfg : Config) : Event → Prop
  | .read addr _ => cfg.base ≤ addr ∧ addr < cfg.base + 0x400
  | .write addr _ _ => cfg.base ≤ addr ∧ addr < cfg.base + 0x400
  | .engine => True
  | .assertReset => True
  | .releaseReset => True

/-- The first `n` steps do not stop. -/
def State.Runs (s : State) : Nat → Prop
  | 0 => True
  | n + 1 => ∃ t, step s = .next t ∧ t.Runs n

end Sys2Proof.Machine
end

