-- ==== Sys2Proof/Certificates/Slice0/Obligations.lean ====
section
/-! DEFINITION. The statements for the provers. Each docstring names the rules of spec/ it rests on. -/

open Sys2Proof Sys2Proof.Machine

/-! ## Notions the statements share -/

/-- R96: the reserved opcode values, as the rule lists them. -/
def Sys2Proof.Claims.ReservedOpcode (op : BitVec 8) : Prop :=
  (0x01 ≤ op.toNat ∧ op.toNat ≤ 0x0F) ∨ (0x1A ≤ op.toNat ∧ op.toNat ≤ 0x1F) ∨
  (0x22 ≤ op.toNat ∧ op.toNat ≤ 0x2F) ∨ (0x31 ≤ op.toNat ∧ op.toNat ≤ 0x3F) ∨
  (0x48 ≤ op.toNat ∧ op.toNat ≤ 0xFF)

/-- R93, R94: a field with class `cls` is as a legal word has it: 0 where it is unused, below the count of
its file where it is used. -/
def Sys2Proof.Claims.FieldLegal (cfg : Config) (cls : Option RegClass) (x : RegIdx) : Prop :=
  match cls with
  | none => x = 0
  | some k => x.toNat < cfg.count k

/-- R95, R252: a word is illegal when its opcode is reserved, or a field or `z` of its opcode's row is not
as a legal word has it. -/
def Sys2Proof.Claims.IllegalWord (cfg : Config) (w : Word) : Prop :=
  Claims.ReservedOpcode (opField w) ∨
  ∃ r ∈ opcodeTable, opField r.pattern = opField w ∧
    (zField w ≠ 0 ∨ ¬ Claims.FieldLegal cfg r.rd (rdField w) ∨
      ¬ Claims.FieldLegal cfg r.rs1 (rs1Field w) ∨ ¬ Claims.FieldLegal cfg r.rs2 (rs2Field w) ∨
      ¬ Claims.FieldLegal cfg r.rs3 (rs3Field w))

/-- R61: the reserved offsets of the window. -/
def Sys2Proof.Claims.ReservedOffset (cfg : Config) (off : Nat) : Prop :=
  (0x010 ≤ off ∧ off ≤ 0x0FF) ∨ (0x100 + 4 * (cfg.w / 32) ≤ off ∧ off ≤ 0x1FF) ∨
  (0x200 + 4 * (cfg.w / 32) ≤ off ∧ off ≤ 0x3FF)

/-- R256: when a command has operands that do not match. -/
def Sys2Proof.Claims.Mismatch (i : Instr) (s : State) : Prop :=
  match i with
  | .fadd _ r1 r2 => ∃ a b, s.HasF r1 a ∧ s.HasF r2 b ∧ a.prime ≠ b.prime
  | .fsub _ r1 r2 => ∃ a b, s.HasF r1 a ∧ s.HasF r2 b ∧ a.prime ≠ b.prime
  | .fmul _ r1 r2 => ∃ a b, s.HasF r1 a ∧ s.HasF r2 b ∧ a.prime ≠ b.prime
  | .fdiv _ r1 r2 => ∃ a b, s.HasF r1 a ∧ s.HasF r2 b ∧ a.prime ≠ b.prime
  | .feq r1 r2 => ∃ a b, s.HasF r1 a ∧ s.HasF r2 b ∧ a.prime ≠ b.prime
  | .cnew _ r1 r2 => ∃ a b, s.HasF r1 a ∧ s.HasF r2 b ∧ a.prime ≠ b.prime
  | .pnew _ r1 r2 r3 =>
    ∃ e x y, s.HasC r1 e ∧ s.HasF r2 x ∧ s.HasF r3 y ∧ (x.prime ≠ e.p ∨ y.prime ≠ e.p)
  | .padd _ r1 r2 =>
    ∃ P Q, s.HasP r1 P ∧ s.HasP r2 Q ∧
      (P.curve.p ≠ Q.curve.p ∨ P.curve.a ≠ Q.curve.a ∨ P.curve.b ≠ Q.curve.b)
  | .peq r1 r2 =>
    ∃ P Q, s.HasP r1 P ∧ s.HasP r2 Q ∧
      (P.curve.p ≠ Q.curve.p ∨ P.curve.a ≠ Q.curve.a ∨ P.curve.b ≠ Q.curve.b)
  | _ => False

/-- R7: the two's-complement value of a W-bit pattern. -/
def Sys2Proof.Claims.signed (w k : Nat) : Int :=
  if k < 2 ^ (w - 1) then (k : Int) else (k : Int) - 2 ^ w

/-- R257: when a command divides by zero in the mode `FAULT`. -/
def Sys2Proof.Claims.ZeroDivisor (i : Instr) (s : State) : Prop :=
  match i with
  | .fdiv _ r1 r2 =>
    ∃ a b, s.HasF r1 a ∧ s.HasF r2 b ∧ a.prime = b.prime ∧ b.inner = 0
  | .finv _ r1 => ∃ b, s.HasF r1 b ∧ b.inner = 0
  | .fpows _ r1 r2 =>
    ∃ x k, s.HasF r1 x ∧ s.HasS r2 k ∧ x.inner = 0 ∧ Claims.signed s.cfg.w k < 0
  | _ => False

/-- R175 on the affine points `(x1, y1)` and `(x2, y2)` of one curve, in exact integers: the point `R` is
what the first rule that applies gives. -/
def Sys2Proof.Claims.SumOfAffine (e : CurveRec) (x1 y1 x2 y2 : Nat) (R : PointVal) : Prop :=
  if x1 = x2 ∧ (y1 ≠ y2 ∨ (y1 + y2) % e.p = 0) then R = .ident e
  else if x1 = x2 then
    ∃ n x3 y3 : Nat, R = .affine e x3 y3 ∧
      (n : Int) = (3 * (x1 : Int) ^ 2 + e.a) * ((2 * (y1 : Int)) % e.p) ^ (e.p - 2) % e.p ∧
      (x3 : Int) = ((n : Int) ^ 2 - 2 * x1) % e.p ∧
      (y3 : Int) = ((n : Int) * (x1 - x3) - y1) % e.p
  else
    ∃ n x3 y3 : Nat, R = .affine e x3 y3 ∧
      (n : Int) = ((y2 : Int) - y1) * (((x2 : Int) - x1) % e.p) ^ (e.p - 2) % e.p ∧
      (x3 : Int) = ((n : Int) ^ 2 - x1 - x2) % e.p ∧
      (y3 : Int) = ((n : Int) * (x1 - x3) - y1) % e.p

/-- R213: one round of the loop on the low bit `bit`: the pair is (result, current). -/
def Sys2Proof.Claims.binaryRound (rc : PointVal × PointVal) (bit : Nat) : PointVal × PointVal :=
  (if bit = 1 then pointAdd rc.1 rc.2 else rc.1, pointAdd rc.2 rc.2)

/-- A point of a curve over a prime field, as a P register may hold it (R24, R25). -/
def Sys2Proof.Claims.PointOver (e : CurveRec) (P : PointVal) : Prop :=
  P.curve = e ∧ P.Reduced ∧ P.OnItsCurve

/-! ## Encoding (30_encoding.md) -/

/-- Words of R92 and R110, written out by hand, decode to the commands they stand for; words that break R93,
R94 or R96 decode to nothing (default counts). -/
def Obligations.SampleWordsDecode : Prop :=
  decode Config.default 0x00000000 = some .nop ∧
  decode Config.default 0x12312000 = some (.fadd 3 1 2) ∧
  decode Config.default 0x19012000 = some (.feq 1 2) ∧
  decode Config.default 0x20100000 = some (.sld 1) ∧
  decode Config.default 0x30312000 = some (.cnew 3 1 2) ∧
  decode Config.default 0x40001200 = some (.pnew 0 0 1 2) ∧
  decode Config.default 0x46013000 = some (.pmuln 0 1 3) ∧
  decode Config.default 0x00000001 = none ∧
  decode Config.default 0x12312100 = none ∧
  decode Config.default 0x1A000000 = none ∧
  decode Config.default 0x42800000 = none

/-- R90 to R95, R110: on every instance, the word of every command that exists there decodes to that
command. -/
def Obligations.DecodeOfEncode : Prop :=
  ∀ (cfg : Config) (i : Instr), i.wellFormed cfg = true → decode cfg (encode i) = some i

/-- R95: "every 32-bit word is either exactly one legal command or illegal": a word that decodes is the word
of the command it decodes to, and that command exists on the instance. -/
def Obligations.EncodeOfDecode : Prop :=
  ∀ (cfg : Config) (w : Word) (i : Instr), decode cfg w = some i →
    encode i = w ∧ i.wellFormed cfg = true

/-- R92: at most one row of the opcode map matches any word. -/
def Obligations.AtMostOneRowSelectsAWord : Prop :=
  ∀ (w : Word) (n m : Fin opcodeTable.length),
    w &&& opcodeTable[n].mask = opcodeTable[n].pattern →
    w &&& opcodeTable[m].mask = opcodeTable[m].pattern → n = m

/-- R96: the reserved opcodes are those no row of R92 has; every word with one is illegal; the only no-op is
NOP, 0x00000000. -/
def Obligations.ReservedOpcodesAreIllegal : Prop :=
  (∀ op, Claims.ReservedOpcode op ↔ ∀ r ∈ opcodeTable, opField r.pattern ≠ op) ∧
  (∀ cfg w, Claims.ReservedOpcode (opField w) → decode cfg w = none) ∧
  (∀ cfg w, decode cfg w = some .nop ↔ w = 0x00000000)

/-- R252: the Engine's turn raises IllegalCommand exactly for a word with a reserved opcode, a nonzero unused
field, a nonzero `z` or an index beyond its file's count; the word writes nothing but STATUS. -/
def Obligations.IllegalCommandExactlyForIllegalWords : Prop :=
  (∀ cfg w, decode cfg w = none ↔ Claims.IllegalWord cfg w) ∧
  ∀ s : State, s.busy = true → s.resetLine = false → nextEvent s = .engine → s.err = false →
    (step s = .next { popEvent s with
        err := true, stickyErr := true, ecode := 0x10, busy := false, done := true } ↔
      Claims.IllegalWord s.cfg s.cmd)

/-- R70, R95: where the Engine has its turn, a command is in flight and its word decodes to `i`, the step is
`exec i`, after the event has been taken from the agenda. The state with a command word placed for fetching
is such a state. With no command in flight the Engine's turn changes nothing (R271). The agenda is the
model's own (log 4). -/
def Obligations.StepRunsDecodedCommand : Prop :=
  (∀ (s : State) (i : Instr), s.busy = true → s.resetLine = false → nextEvent s = .engine →
    decode s.cfg s.cmd = some i → step s = exec i (popEvent s)) ∧
  (∀ s : State, s.busy = false → nextEvent s = .engine →
    step s = .next { s with agenda := s.agenda.tail }) ∧
  ∀ (s : State) (nbits w : Nat) (i : Instr),
    decode s.cfg (BitVec.ofNat 32 (w % 2 ^ nbits)) = some i →
    step (s.withFetchWord nbits w) = exec i (popEvent (s.withFetchWord nbits w))

/-- R110, R111: the assembler gives back every command that exists from its mnemonic and its operands in
order; it expands FSQR and PDBL, and knows no other mnemonic than those and R92's. -/
def Obligations.AssemblerReadsCommandsAndPseudoInstructions : Prop :=
  (∀ cfg i, i.wellFormed cfg = true →
    assemble cfg i.mnemonic (i.operands.map fun o => (o.1, o.2.toNat)) = some i) ∧
  (∀ cfg fd fa, assemble cfg "FSQR" [fd, fa] = assemble cfg "FMUL" [fd, fa, fa]) ∧
  (∀ cfg pd pa, assemble cfg "PDBL" [pd, pa] = assemble cfg "PADD" [pd, pa, pa]) ∧
  (∀ cfg mnemonic ops, mnemonic ≠ "FSQR" → mnemonic ≠ "PDBL" →
    (∀ r ∈ opcodeTable, r.mnemonic ≠ mnemonic) → assemble cfg mnemonic ops = none)

/-! ## Reset (10_state.md section 5, 43_system.md, 70_reset_and_hazards.md) -/

/-- R38: what reset leaves, for every instance; every read of a register raises UninitializedRegister. -/
def Obligations.ResetLeavesSpecifiedValues : Prop :=
  State.reset = State.resetOf Config.default ∧
  ∀ cfg : Config,
    (∀ o, (State.resetOf cfg).isValid o = false) ∧ (State.resetOf cfg).t = false ∧
    (State.resetOf cfg).dataA = 0 ∧ (State.resetOf cfg).dataB = 0 ∧
    (State.resetOf cfg).statusWord = 0x00000000 ∧ (State.resetOf cfg).cmd = 0x00000000 ∧
    readWindow (State.resetOf cfg) 0x004 = 0x00000000 ∧
    readWindow (State.resetOf cfg) 0x000 = idWord cfg ∧ (State.resetOf cfg).busy = false ∧
    (State.resetOf cfg).cfg = cfg

/-- The invariant holds at reset, for every legal instance (R38, R5). -/
def Obligations.ResetMeetsInvariant : Prop :=
  (∀ cfg : Config, cfg.Legal → (State.resetOf cfg).Inv ∧ (State.resetOf cfg).PointsOnCurve) ∧
  State.reset.Inv

/-- R241: a write to CTRL with bit 0 set, also while BUSY = 1, gives every state its reset value and abandons
the command in flight, which never commits; with bit 0 clear the write does nothing. -/
def Obligations.SoftResetResetsEverything : Prop :=
  ∀ (s : State) (v : Word), s.resetLine = false →
    nextEvent s = .write (s.cfg.base + 0x004) 4 v →
    (v.getLsbD 0 = true →
      ∃ t, step s = .next t ∧
        t = { State.resetOf s.cfg with agenda := s.agenda.tail, response := some .writeDone } ∧
        (nextEvent t = .engine → step t = .next (popEvent t))) ∧
    (v.getLsbD 0 = false →
      step s = .next { popEvent s with response := some .writeDone })

/-- R280: while the reset input is asserted the window does not respond; when it is released every piece of
state holds its reset value. The reset input as a level with two events, and the recorded answer
`noResponse`, are the model's choice (log 5, log 7). -/
def Obligations.HardwareResetResetsEverything : Prop :=
  (∀ s : State, nextEvent s = .assertReset → ∃ t, step s = .next t ∧ t.resetLine = true) ∧
  (∀ (s : State) (addr bytes : Nat) (v : Word), s.resetLine = true →
    s.cfg.base ≤ addr → addr < s.cfg.base + 0x400 →
    nextEvent s = .read addr bytes ∨ nextEvent s = .write addr bytes v →
    step s = .next { popEvent s with response := some .noResponse }) ∧
  (∀ s : State, s.resetLine = true → nextEvent s = .releaseReset →
    step s = .next { State.resetOf s.cfg with agenda := s.agenda.tail, response := s.response })

/-! ## The register window (20_memory.md, 10_state.md section 3) -/

/-- R33 to R35: a Host read of STATUS answers the status word, one of CTRL answers 0 and one of CMD the CMD
read value, in every state with the reset input released; and the fields of the status word. -/
def Obligations.StatusWordLayout : Prop :=
  (∀ s : State, s.resetLine = false →
    (nextEvent s = .read (s.cfg.base + 0x008) 4 →
      step s = .next { popEvent s with response := some (.readData s.statusWord) }) ∧
    (nextEvent s = .read (s.cfg.base + 0x004) 4 →
      step s = .next { popEvent s with response := some (.readData 0) }) ∧
    (nextEvent s = .read (s.cfg.base + 0x00C) 4 →
      step s = .next { popEvent s with response := some (.readData s.cmd) })) ∧
  ∀ s : State,
    s.statusWord.getLsbD 0 = s.busy ∧ s.statusWord.getLsbD 1 = s.done ∧
    s.statusWord.getLsbD 2 = s.err ∧ s.statusWord.getLsbD 3 = s.t ∧
    s.statusWord.getLsbD 4 = s.stickyErr ∧ s.statusWord.getLsbD 5 = s.ovr ∧
    s.statusWord.extractLsb' 6 2 = 0 ∧ s.statusWord.extractLsb' 8 8 = s.ecode ∧
    s.statusWord.extractLsb' 16 16 = 0

/-- R242: a write to STATUS, at any time, clears STICKY_ERR and OVR where bits 4 and 5 are written as 1; every
other bit is ignored. -/
def Obligations.StatusWriteClearsStickyBits : Prop :=
  ∀ (s : State) (v : Word), s.resetLine = false →
    nextEvent s = .write (s.cfg.base + 0x008) 4 v →
    step s = .next { popEvent s with
      stickyErr := if v.getLsbD 4 = true then false else s.stickyErr
      ovr := if v.getLsbD 5 = true then false else s.ovr
      response := some .writeDone }

/-- R32: the fields of ID on a legal instance, its value at the defaults, and that a write to it is
ignored. -/
def Obligations.IdReadsTheParameters : Prop :=
  (∀ cfg : Config, cfg.Legal →
    (idWord cfg).extractLsb' 0 8 = 0x01 ∧
    ((idWord cfg).extractLsb' 8 8).toNat = cfg.w / 32 ∧
    ((idWord cfg).extractLsb' 16 4).toNat = cfg.nf - 1 ∧
    ((idWord cfg).extractLsb' 20 4).toNat = cfg.np - 1 ∧
    ((idWord cfg).extractLsb' 24 4).toNat = cfg.nc - 1 ∧
    ((idWord cfg).extractLsb' 28 4).toNat = cfg.ns - 1) ∧
  idWord Config.default = 0x337F0801 ∧
  (∀ (s : State) (v : Word), s.resetLine = false →
    (nextEvent s = .read s.cfg.base 4 →
      step s = .next { popEvent s with response := some (.readData (idWord s.cfg)) }) ∧
    (nextEvent s = .write s.cfg.base 4 v →
      step s = .next { popEvent s with response := some .writeDone }))

/-- R62, R67: a Host read changes nothing of ECC-CORE; reading the same place twice in a row answers the same
twice; and with the reset input released an aligned 32-bit read answers the word `readWindow` gives for its
offset. -/
def Obligations.ReadsHaveNoSideEffect : Prop :=
  ∀ (s : State) (addr bytes : Nat), nextEvent s = .read addr bytes →
    s.cfg.base ≤ addr → addr < s.cfg.base + 0x400 →
    ∃ r, step s = .next { popEvent s with response := some r } ∧
      (s.resetLine = false → bytes = 4 → (addr - s.cfg.base) % 4 = 0 →
        r = .readData (readWindow s (addr - s.cfg.base))) ∧
      ∀ rest, s.agenda = .read addr bytes :: .read addr bytes :: rest →
        step { popEvent s with response := some r } =
          .next { s with agenda := rest, response := some r }

/-- R64: an aligned 32-bit read of a reserved offset answers 0 and a write to one is ignored; neither changes
state. -/
def Obligations.ReservedOffsetsReadZeroIgnoreWrites : Prop :=
  ∀ (s : State) (off : Nat) (v : Word), s.cfg.Legal → s.resetLine = false →
    Claims.ReservedOffset s.cfg off → off % 4 = 0 →
    (nextEvent s = .read (s.cfg.base + off) 4 →
      step s = .next { popEvent s with response := some (.readData 0) }) ∧
    (nextEvent s = .write (s.cfg.base + off) 4 v →
      step s = .next { popEvent s with response := some .writeDone })

/-- R63: an access of another width, or at an offset that is not a multiple of 4, changes no state; it ends
with a bus error, or with `BAD_ACCESS_MODE = IGNORE` a write is dropped and a read returns 0. That the bus
error is a recorded answer to the Host, and no stop of the machine, is the model's reading (log 5). -/
def Obligations.BadAccessesChangeNothing : Prop :=
  ∀ (s : State) (off bytes : Nat) (v : Word), s.resetLine = false → off < 0x400 →
    bytes ≠ 4 ∨ off % 4 ≠ 0 →
    (nextEvent s = .read (s.cfg.base + off) bytes →
      step s = .next { popEvent s with
        response := some (if s.cfg.badAccessMode = .busError then .busError else .readData 0) }) ∧
    (nextEvent s = .write (s.cfg.base + off) bytes v →
      step s = .next { popEvent s with
        response := some (if s.cfg.badAccessMode = .busError then .busError else .writeDone) })

/-- R69: while BUSY = 1, a write to CMD or to a word of DATA_A or DATA_B is dropped and sets OVR; a write to
CTRL or STATUS takes effect; reads are accepted, and DATA reads return the buffer as it was at issue. -/
def Obligations.BusyWritesAreDroppedAndSetOvr : Prop :=
  ∀ (s : State) (v : Word), s.cfg.Legal → s.resetLine = false → s.busy = true →
    (∀ off, off = 0x00C ∨ (∃ i < s.cfg.w / 32, off = 0x100 + 4 * i ∨ off = 0x200 + 4 * i) →
      nextEvent s = .write (s.cfg.base + off) 4 v →
      step s = .next { popEvent s with ovr := true, response := some .writeDone }) ∧
    (nextEvent s = .write (s.cfg.base + 0x004) 4 v → v.getLsbD 0 = true →
      ∃ t, step s = .next t ∧ t.busy = false) ∧
    (nextEvent s = .write (s.cfg.base + 0x008) 4 v →
      ∃ t, step s = .next t ∧ t.busy = true ∧
        t.stickyErr = (s.stickyErr && !v.getLsbD 4) ∧ t.ovr = (s.ovr && !v.getLsbD 5)) ∧
    (∀ off, off < 0x400 → off % 4 = 0 → nextEvent s = .read (s.cfg.base + off) 4 →
      ∃ x, step s = .next { popEvent s with response := some (.readData x) } ∧
        (∀ i < s.cfg.w / 32, off = 0x100 + 4 * i →
          x = BitVec.ofNat 32 (s.dataA / 2 ^ (32 * i))) ∧
        (∀ i < s.cfg.w / 32, off = 0x200 + 4 * i →
          x = BitVec.ofNat 32 (s.dataB / 2 ^ (32 * i))))

/-- R35, R70 Issue: a write of CMD while BUSY = 0 issues the word, whatever it is, and CMD then reads it. -/
def Obligations.CmdWriteIssuesTheWord : Prop :=
  ∀ (s : State) (w : Word), s.resetLine = false → s.busy = false →
    nextEvent s = .write (s.cfg.base + 0x00C) 4 w →
    ∃ t, step s = .next t ∧
      t = { popEvent s with
        cmd := w, busy := true, done := false, err := false, ecode := 0x00,
        response := some .writeDone } ∧
      readWindow t 0x00C = w

/-- R36, R67: with BUSY = 0, a write to a word of a staging buffer changes nothing but the buffers; the word
is read back from its offset, and every other aligned offset of the window reads as before. -/
def Obligations.DataWordReadsBack : Prop :=
  ∀ (s : State) (off : Nat) (v : Word), s.cfg.Legal → s.resetLine = false → s.busy = false →
    (∃ i < s.cfg.w / 32, off = 0x100 + 4 * i ∨ off = 0x200 + 4 * i) →
    nextEvent s = .write (s.cfg.base + off) 4 v →
    ∃ t, step s = .next t ∧
      t = { popEvent s with dataA := t.dataA, dataB := t.dataB, response := some .writeDone } ∧
      readWindow t off = v ∧
      ∀ off', off' % 4 = 0 → off' ≠ off → readWindow t off' = readWindow s off'

/-- R65, R66: the bytes of a window word lie least significant first, and so do the words of a W-bit
value. -/
def Obligations.BytesAndWordsAreLeastSignificantFirst : Prop :=
  (∀ (s : State) (off : Nat), off % 4 = 0 →
    (readWindow s off).toNat =
      (windowByte s off).toNat + 2 ^ 8 * (windowByte s (off + 1)).toNat +
        2 ^ 16 * (windowByte s (off + 2)).toNat + 2 ^ 24 * (windowByte s (off + 3)).toNat) ∧
  (∀ s : State, s.Inv →
    s.dataA = ∑ i ∈ Finset.range (s.cfg.w / 32),
      (readWindow s (0x100 + 4 * i)).toNat * 2 ^ (32 * i) ∧
    s.dataB = ∑ i ∈ Finset.range (s.cfg.w / 32),
      (readWindow s (0x200 + 4 * i)).toNat * 2 ^ (32 * i))

/-- R37, R69: while a command is in flight, no Host access other than a soft reset changes what the Engine
will read at its commit: the register files, the buffers, T and the word. -/
def Obligations.InFlightOperandsStayFixed : Prop :=
  ∀ (s t : State) (addr bytes : Nat) (v : Word), s.busy = true →
    (nextEvent s = .read addr bytes ∨
      (nextEvent s = .write addr bytes v ∧
        ¬ (addr = s.cfg.base + 0x004 ∧ bytes = 4 ∧ v.getLsbD 0 = true))) →
    step s = .next t →
    t.fregs = s.fregs ∧ t.cregs = s.cregs ∧ t.pregs = s.pregs ∧ t.sregs = s.sregs ∧
    t.dataA = s.dataA ∧ t.dataB = s.dataB ∧ t.t = s.t ∧ t.cmd = s.cmd ∧ t.busy = true

/-! ## Whole-machine rules -/

/-- R5, R21, R22, R24, R27, R34, R36: every step keeps the invariant, from every state that has it. -/
def Obligations.StepKeepsInvariant : Prop :=
  ∀ s t : State, s.Inv → step s = .next t → t.Inv

/-- R25, R181: every step keeps the points over prime moduli on their curves. -/
def Obligations.StepKeepsPointsOnCurve : Prop :=
  ∀ s t : State, s.Inv → s.PointsOnCurve → step s = .next t → t.PointsOnCurve

/-- R39, R282: no step changes the parameters. -/
def Obligations.StepKeepsParameters : Prop :=
  ∀ s t : State, step s = .next t → t.cfg = s.cfg

/-- R60, R262: no step is refused, and only a Host access outside the window faults; a run whose agenda stays
inside the window never stops. That such an access faults is the model's choice (log 6). -/
def Obligations.StepsStopOnlyOutsideTheWindow : Prop :=
  (∀ s : State,
    (∃ t, step s = .next t) ∨
    ∃ addr bytes v, step s = .fault (.outsideWindow addr) ∧
      (nextEvent s = .read addr bytes ∨ nextEvent s = .write addr bytes v) ∧
      (addr < s.cfg.base ∨ s.cfg.base + 0x400 ≤ addr)) ∧
  (∀ (s : State) (n : Nat), (∀ e ∈ s.agenda, e.InWindow s.cfg) → s.Runs n)

/-- R70, R71, R261: every command commits, with BUSY = 0 and DONE = 1; it either ends in an error, and then only
ERR, STICKY_ERR, ECODE, BUSY and DONE change, or leaves ERR, STICKY_ERR and ECODE as they were. That the
commit without error leaves those three is the model's reading of R70 beside R34's table (log 11). -/
def Obligations.CommandErrorsChangeOnlyStatus : Prop :=
  ∀ (i : Instr) (s : State),
    (∃ e : ErrorKind, exec i s = .next { s with
      err := true, stickyErr := true, ecode := e.code, busy := false, done := true }) ∨
    ∃ t, exec i s = .next t ∧ t.err = s.err ∧ t.stickyErr = s.stickyErr ∧ t.ecode = s.ecode ∧
      t.busy = false ∧ t.done = true

/-- R20, R22, R24, R27, R29, R31, R36: a command changes no register but its destination, no staging buffer but
for FRD (both) and SST (DATA_A), and T only by FEQ and PEQ; CMD, OVR and the parameters stay. -/
def Obligations.CommandsWriteOnlyTheirDestination : Prop :=
  ∀ (i : Instr) (s t : State), exec i s = .next t →
    (∀ n, (∀ rd, i.dest = some (.F, rd) → rd.toNat ≠ n) → t.fregs[n]? = s.fregs[n]?) ∧
    (∀ n, (∀ rd, i.dest = some (.C, rd) → rd.toNat ≠ n) → t.cregs[n]? = s.cregs[n]?) ∧
    (∀ n, (∀ rd, i.dest = some (.P, rd) → rd.toNat ≠ n) → t.pregs[n]? = s.pregs[n]?) ∧
    (∀ n, (∀ rd, i.dest = some (.S, rd) → rd.toNat ≠ n) → t.sregs[n]? = s.sregs[n]?) ∧
    ((∀ rs1, i ≠ .frd rs1 ∧ i ≠ .sst rs1) → t.dataA = s.dataA) ∧
    ((∀ rs1, i ≠ .frd rs1) → t.dataB = s.dataB) ∧
    ((∀ rs1 rs2, i ≠ .feq rs1 rs2 ∧ i ≠ .peq rs1 rs2) → t.t = s.t) ∧
    t.cmd = s.cmd ∧ t.ovr = s.ovr ∧ t.cfg = s.cfg ∧ t.resetLine = s.resetLine ∧
    t.agenda = s.agenda ∧ t.response = s.response

/-- R31: T changes in a step only by the commit of FEQ or PEQ without error, or by a reset. -/
def Obligations.TestFlagChangesOnlyByEqualityOrReset : Prop :=
  ∀ s t : State, step s = .next t → t.t ≠ s.t →
    (∃ rs1 rs2, s.busy = true ∧ nextEvent s = .engine ∧ t.err = s.err ∧
      (decode s.cfg s.cmd = some (.feq rs1 rs2) ∨ decode s.cfg s.cmd = some (.peq rs1 rs2))) ∨
    (t.t = false ∧ (nextEvent s = .assertReset ∨ nextEvent s = .releaseReset ∨
      ∃ v, nextEvent s = .write (s.cfg.base + 0x004) 4 v ∧ v.getLsbD 0 = true))

/-- R28: no command clears a valid bit, and a command without error makes its destination valid. -/
def Obligations.CommandsNeverClearValidBits : Prop :=
  ∀ (i : Instr) (s t : State), exec i s = .next t →
    (∀ o, s.isValid o = true → t.isValid o = true) ∧
    (s.Inv → i.wellFormed s.cfg = true → s.err = false → t.err = false →
      ∀ o, i.dest = some o → t.isValid o = true)

/-! ## When each error is raised (60_exceptions.md)

The premise `s.err = false` holds in every state with a command in flight that a run reaches: R70 clears ERR
at issue, and R34's legal combinations (`State.Inv`, kept by every step) have ERR = 0 while BUSY = 1. -/

/-- R251: UninitializedRegister is raised exactly when a source register of the command is invalid; the
destination need not be valid. -/
def Obligations.UninitializedRegisterExactly : Prop :=
  ∀ (i : Instr) (s : State), s.err = false →
    (exec i s = .next { s with
        err := true, stickyErr := true, ecode := 0x11, busy := false, done := true } ↔
      ∃ o ∈ i.sources, s.isValid o = false)

/-- R256: CurveMismatch is raised exactly when the sources are valid and two field elements have different
primes, a coordinate is not over the curve's prime, or two points are bound to different curves (R23). -/
def Obligations.CurveMismatchExactly : Prop :=
  ∀ (i : Instr) (s : State), s.err = false →
    (exec i s = .next { s with
        err := true, stickyErr := true, ecode := 0x03, busy := false, done := true } ↔
      Claims.Mismatch i s)

/-- R257: DivisionByZero is raised exactly in the mode `FAULT`, by FDIV with a zero divisor, FINV of zero and
FPOWS of zero with a negative exponent. -/
def Obligations.DivisionByZeroExactly : Prop :=
  ∀ (i : Instr) (s : State), s.Inv → s.err = false →
    (exec i s = .next { s with
        err := true, stickyErr := true, ecode := 0x04, busy := false, done := true } ↔
      s.cfg.div0Mode = .fault ∧ Claims.ZeroDivisor i s)

/-- R255: PointNotOnCurve is raised exactly by PNEW when the coordinates, over the curve's prime, fail the
curve equation. -/
def Obligations.PointNotOnCurveExactly : Prop :=
  ∀ (i : Instr) (s : State), s.err = false →
    (exec i s = .next { s with
        err := true, stickyErr := true, ecode := 0x02, busy := false, done := true } ↔
      ∃ rd r1 r2 r3 e x y, i = .pnew rd r1 r2 r3 ∧ s.HasC r1 e ∧ s.HasF r2 ⟨x, e.p⟩ ∧
        s.HasF r3 ⟨y, e.p⟩ ∧ (y ^ 2) % e.p ≠ (x ^ 3 + e.a * x + e.b) % e.p)

/-- R258: NoCoordinates is raised exactly by PGETX and PGETY when the point is the Identity. -/
def Obligations.NoCoordinatesExactly : Prop :=
  ∀ (i : Instr) (s : State), s.err = false →
    (exec i s = .next { s with
        err := true, stickyErr := true, ecode := 0x13, busy := false, done := true } ↔
      ∃ rd r1 e, (i = .pgetx rd r1 ∨ i = .pgety rd r1) ∧ s.HasP r1 (.ident e))

/-- R129, R253, R254: InvalidModulus is raised exactly by FNEW when DATA_B < 2; InvalidElement exactly by
FNEW when DATA_B is at least 2 and DATA_A >= DATA_B. -/
def Obligations.FnewErrorsExactly : Prop :=
  ∀ (i : Instr) (s : State), s.err = false →
    (exec i s = .next { s with
        err := true, stickyErr := true, ecode := 0x12, busy := false, done := true } ↔
      (∃ rd, i = .fnew rd) ∧ s.dataB < 2) ∧
    (exec i s = .next { s with
        err := true, stickyErr := true, ecode := 0x01, busy := false, done := true } ↔
      (∃ rd, i = .fnew rd) ∧ 2 ≤ s.dataB ∧ s.dataB ≤ s.dataA)

/-! ## What each command writes (40_field.md, 41_curve_point.md, 42_scalar_mult.md, 43_system.md) -/

/-- R240: NOP commits and writes nothing. -/
def Obligations.NopOnlyCommits : Prop :=
  ∀ s : State, exec .nop s = .next { s with busy := false, done := true }

/-- R129: FNEW of a modulus of at least 2 and a residue below it writes the field element; the buffers
stay. -/
def Obligations.FnewWritesElement : Prop :=
  ∀ (s : State) (rd : RegIdx), 2 ≤ s.dataB → s.dataA < s.dataB →
    exec (.fnew rd) s = .next { s with
      fregs := s.fregs.set rd.toNat (some ⟨s.dataA, s.dataB⟩), busy := false, done := true }

/-- R130: FRD of a valid register writes its residue to DATA_A and its prime to DATA_B. -/
def Obligations.FrdWritesBuffers : Prop :=
  ∀ (s : State) (rs1 : RegIdx) (v : Felt), s.HasF rs1 v →
    exec (.frd rs1) s = .next { s with
      dataA := v.inner, dataB := v.prime, busy := false, done := true }

/-- R122 to R124, R131 to R133: over equal primes FADD, FSUB and FMUL write the exact sum, difference and
product of the residues, modulo the prime; a destination may be a source (R29). -/
def Obligations.FaddFsubFmulWriteExactResults : Prop :=
  ∀ (s : State) (rd rs1 rs2 : RegIdx) (a b : Felt), s.Inv →
    s.HasF rs1 a → s.HasF rs2 b → a.prime = b.prime →
    exec (.fadd rd rs1 rs2) s = .next { s with
      fregs := s.fregs.set rd.toNat (some ⟨(a.inner + b.inner) % a.prime, a.prime⟩)
      busy := false, done := true } ∧
    exec (.fsub rd rs1 rs2) s = .next { s with
      fregs := s.fregs.set rd.toNat
        (some ⟨(((a.inner : Int) - b.inner) % a.prime).toNat, a.prime⟩)
      busy := false, done := true } ∧
    exec (.fmul rd rs1 rs2) s = .next { s with
      fregs := s.fregs.set rd.toNat (some ⟨(a.inner * b.inner) % a.prime, a.prime⟩)
      busy := false, done := true }

/-- R125, R126, R134, R135: FDIV writes `a * b^(p-2) mod p` and FINV `b^(p-2) mod p`, where the divisor is not
0 or `DIV0_MODE = REFERENCE_FORMULA`. -/
def Obligations.FdivAndFinvWriteTheFormula : Prop :=
  ∀ (s : State) (rd rs1 rs2 : RegIdx) (a b : Felt),
    b.inner ≠ 0 ∨ s.cfg.div0Mode = .referenceFormula →
    (s.HasF rs1 a → s.HasF rs2 b → a.prime = b.prime →
      exec (.fdiv rd rs1 rs2) s = .next { s with
        fregs := s.fregs.set rd.toNat
          (some ⟨(a.inner * b.inner ^ (b.prime - 2)) % a.prime, a.prime⟩)
        busy := false, done := true }) ∧
    (s.HasF rs1 b →
      exec (.finv rd rs1) s = .next { s with
        fregs := s.fregs.set rd.toNat (some ⟨b.inner ^ (b.prime - 2) % b.prime, b.prime⟩)
        busy := false, done := true })

/-- R127, R136: FPOWU writes the power with the exponent reduced as POWU_REDUCTION says. -/
def Obligations.FpowuWritesPowerByReduction : Prop :=
  ∀ (s : State) (rd rs1 rs2 : RegIdx) (x : Felt) (k : Nat), s.HasF rs1 x → s.HasS rs2 k →
    exec (.fpowu rd rs1 rs2) s = .next { s with
      fregs := s.fregs.set rd.toNat
        (some ⟨x.inner ^ (match s.cfg.powuReduction with
          | .modP => k % x.prime
          | .modPMinus1 => k % (x.prime - 1)
          | .unreduced => k) % x.prime, x.prime⟩)
      busy := false, done := true }

/-- R128, R137: FPOWS reads the exponent as a signed number: a positive one is not reduced, 0 gives 1, and a
negative one is reduced modulo `p - 1` to the exponent `E` in `[0, p-2]`. -/
def Obligations.FpowsWritesPowerBySign : Prop :=
  ∀ (s : State) (rd rs1 rs2 : RegIdx) (x : Felt) (k : Nat), s.Inv → s.HasF rs1 x → s.HasS rs2 k →
    (0 < Claims.signed s.cfg.w k →
      exec (.fpows rd rs1 rs2) s = .next { s with
        fregs := s.fregs.set rd.toNat (some ⟨x.inner ^ k % x.prime, x.prime⟩)
        busy := false, done := true }) ∧
    (Claims.signed s.cfg.w k = 0 →
      exec (.fpows rd rs1 rs2) s = .next { s with
        fregs := s.fregs.set rd.toNat (some ⟨1, x.prime⟩), busy := false, done := true }) ∧
    (Claims.signed s.cfg.w k < 0 → x.inner ≠ 0 ∨ s.cfg.div0Mode = .referenceFormula →
      ∃ E : Nat, E ≤ x.prime - 2 ∧ (E : Int) = Claims.signed s.cfg.w k % ((x.prime : Int) - 1) ∧
        exec (.fpows rd rs1 rs2) s = .next { s with
          fregs := s.fregs.set rd.toNat (some ⟨x.inner ^ E % x.prime, x.prime⟩)
          busy := false, done := true })

/-- R138: FEQ over equal primes writes T: 1 when the residues are equal, else 0. -/
def Obligations.FeqWritesTestFlag : Prop :=
  ∀ (s : State) (rs1 rs2 : RegIdx) (a b : Felt), s.HasF rs1 a → s.HasF rs2 b →
    a.prime = b.prime →
    exec (.feq rs1 rs2) s = .next { s with
      t := if a.inner = b.inner then true else false, busy := false, done := true }

/-- R210, R211: SLD copies the pattern of DATA_A to the scalar register and SST copies a valid one back;
DATA_B stays. -/
def Obligations.SldAndSstMovePatterns : Prop :=
  ∀ (s : State) (r : RegIdx),
    exec (.sld r) s = .next { s with
      sregs := s.sregs.set r.toNat (some s.dataA), busy := false, done := true } ∧
    ∀ k, s.HasS r k →
      exec (.sst r) s = .next { s with dataA := k, busy := false, done := true }

/-- R170: CNEW writes the curve record of two coefficients over one prime, whatever they are. -/
def Obligations.CnewWritesCurveRecord : Prop :=
  ∀ (s : State) (rd rs1 rs2 : RegIdx) (a b : Felt), s.HasF rs1 a → s.HasF rs2 b →
    a.prime = b.prime →
    exec (.cnew rd rs1 rs2) s = .next { s with
      cregs := s.cregs.set rd.toNat (some ⟨a.prime, a.inner, b.inner⟩)
      busy := false, done := true }

/-- R171 to R173: PNEW writes the affine point of coordinates that satisfy the curve equation, and PID writes
the Identity of the curve. -/
def Obligations.PnewAndPidWritePoints : Prop :=
  ∀ (s : State) (rd rs1 rs2 rs3 : RegIdx) (e : CurveRec) (x y : Nat), s.HasC rs1 e →
    (s.HasF rs2 ⟨x, e.p⟩ → s.HasF rs3 ⟨y, e.p⟩ →
      (y ^ 2) % e.p = (x ^ 3 + e.a * x + e.b) % e.p →
      exec (.pnew rd rs1 rs2 rs3) s = .next { s with
        pregs := s.pregs.set rd.toNat (some (.affine e x y)), busy := false, done := true }) ∧
    exec (.pid rd rs1) s = .next { s with
      pregs := s.pregs.set rd.toNat (some (.ident e)), busy := false, done := true }

/-- R175, R176: PADD on two points of one curve writes their sum by the group law, in exact integers: the
Identity is neutral, and two affine points add by the rules for inverses, tangent and chord. -/
def Obligations.PaddFollowsGroupLaw : Prop :=
  ∀ (s : State) (rd rs1 rs2 : RegIdx) (P Q : PointVal), s.Inv → s.HasP rs1 P → s.HasP rs2 Q →
    P.curve = Q.curve →
    ∃ R, exec (.padd rd rs1 rs2) s = .next { s with
        pregs := s.pregs.set rd.toNat (some R), busy := false, done := true } ∧
      (∀ e, P = .ident e → R = Q) ∧ (∀ e, Q = .ident e → R = P) ∧
      (∀ e x1 y1 x2 y2, P = .affine e x1 y1 → Q = .affine e x2 y2 →
        Claims.SumOfAffine e x1 y1 x2 y2 R)

/-- R26, R177: PEQ on two points of one curve writes T: Identity equals only Identity, and affine points are
equal when both coordinates are. -/
def Obligations.PeqWritesTestFlag : Prop :=
  ∀ (s : State) (rs1 rs2 : RegIdx) (P Q : PointVal), s.HasP rs1 P → s.HasP rs2 Q →
    P.curve = Q.curve →
    exec (.peq rs1 rs2) s = .next { s with
      t := if P = Q then true else false, busy := false, done := true }

/-- R178, R179: PGETX and PGETY of an affine point write its coordinate over the curve's prime. -/
def Obligations.PgetxAndPgetyWriteCoordinates : Prop :=
  ∀ (s : State) (rd rs1 : RegIdx) (e : CurveRec) (x y : Nat), s.HasP rs1 (.affine e x y) →
    exec (.pgetx rd rs1) s = .next { s with
      fregs := s.fregs.set rd.toNat (some ⟨x, e.p⟩), busy := false, done := true } ∧
    exec (.pgety rd rs1) s = .next { s with
      fregs := s.fregs.set rd.toNat (some ⟨y, e.p⟩), busy := false, done := true }

/-- R212, R214: PMULN writes the Identity of the point's curve for `k = 0`, else the point with itself added
on the right `k - 1` times. -/
def Obligations.PmulnAddsRepeatedly : Prop :=
  ∀ (s : State) (rd rs1 rs2 : RegIdx) (P : PointVal) (k : Nat), s.HasP rs1 P → s.HasS rs2 k →
    exec (.pmuln rd rs1 rs2) s = .next { s with
      pregs := s.pregs.set rd.toNat (some
        (if k = 0 then .ident P.curve else (fun acc => pointAdd acc P)^[k - 1] P))
      busy := false, done := true }

/-- R213, R215: PMULB writes what the loop of R213 gives on the scalar's bits, least significant first. -/
def Obligations.PmulbDoublesAndAdds : Prop :=
  ∀ (s : State) (rd rs1 rs2 : RegIdx) (P : PointVal) (k : Nat), s.HasP rs1 P → s.HasS rs2 k →
    exec (.pmulb rd rs1 rs2) s = .next { s with
      pregs := s.pregs.set rd.toNat (some
        ((Nat.digits 2 k).foldl Claims.binaryRound (.ident P.curve, P)).1)
      busy := false, done := true }

/-! ## Laws -/

/-- R139: the field laws over a prime, and the round trip of FNEW and FRD. -/
def Obligations.FieldLawsOverPrimes : Prop :=
  (∀ a b c : Felt, a.prime.Prime → b.prime = a.prime → c.prime = a.prime →
    a.inner < a.prime → b.inner < a.prime → c.inner < a.prime →
    fAdd a b = fAdd b a ∧ fAdd (fAdd a b) c = fAdd a (fAdd b c) ∧
    fMul a (fAdd b c) = fAdd (fMul a b) (fMul a c) ∧
    (a.inner ≠ 0 → ∀ mode, fDiv mode a a = .ok ⟨1, a.prime⟩)) ∧
  (∀ (s : State) (r : RegIdx), 2 ≤ s.dataB → s.dataA < s.dataB → r.toNat < s.fregs.length →
    ∃ t u, exec (.fnew r) s = .next t ∧ exec (.frd r) t = .next u ∧
      u.dataA = s.dataA ∧ u.dataB = s.dataB)

/-- R123: the two branches of the subtraction never leave the residues, and equal the difference modulo the
prime. -/
def Obligations.SubtractionNeverUnderflows : Prop :=
  ∀ a b : Felt, a.prime = b.prime → a.inner < a.prime → b.inner < b.prime →
    fSub a b =
      ⟨if a.inner ≥ b.inner then a.inner - b.inner else a.prime - (b.inner - a.inner), a.prime⟩ ∧
    ((fSub a b).inner : Int) = ((a.inner : Int) - b.inner) % a.prime ∧
    (fSub a b).inner < a.prime

/-- R125: for a nonzero residue of a prime, in either mode, `b * FInv(b) = 1` modulo the prime. -/
def Obligations.InverseMultipliesToOne : Prop :=
  ∀ (mode : Div0Mode) (b : Felt), b.prime.Prime → b.inner < b.prime → b.inner ≠ 0 →
    ∃ i, fInv mode b = .ok i ∧ i.prime = b.prime ∧ (b.inner * i.inner) % b.prime = 1

/-- R175: the divisors of rules 4 and 5 are never 0. Where point addition comes to the tangent or the chord,
FDiv of the slope's numerator by its divisor gives that slope, under either `DIV0_MODE`. -/
def Obligations.GroupLawNeverDividesByZero : Prop :=
  ∀ (mode : Div0Mode) (e : CurveRec) (x1 y1 x2 y2 : Nat),
    x1 < e.p → y1 < e.p → x2 < e.p → y2 < e.p →
    ¬ (x1 = x2 ∧ (y1 ≠ y2 ∨ (y1 + y2) % e.p = 0)) →
    (x1 = x2 →
      pointAdd (.affine e x1 y1) (.affine e x2 y2) = doublePoint e x1 y1 ∧
      fDiv mode ⟨(3 * x1 ^ 2 + e.a) % e.p, e.p⟩ ⟨(2 * y1) % e.p, e.p⟩ =
        .ok ⟨tangentSlope e x1 y1, e.p⟩) ∧
    (x1 ≠ x2 →
      pointAdd (.affine e x1 y1) (.affine e x2 y2) = chordPoint e x1 y1 x2 y2 ∧
      fDiv mode ⟨(((y2 : Int) - y1) % e.p).toNat, e.p⟩ ⟨(((x2 : Int) - x1) % e.p).toNat, e.p⟩ =
        .ok ⟨chordSlope e x1 y1 x2 y2, e.p⟩)

/-- R180: over a prime, point addition is commutative on the points of a curve. -/
def Obligations.PointAdditionCommutesOverPrimes : Prop :=
  ∀ (e : CurveRec) (P Q : PointVal), e.p.Prime → Claims.PointOver e P → Claims.PointOver e Q →
    pointAdd P Q = pointAdd Q P

/-- R180: over a prime greater than 3, point addition is associative on the points of a non-singular
curve. -/
def Obligations.PointAdditionAssociatesOnNonsingularCurves : Prop :=
  ∀ (e : CurveRec) (P Q R : PointVal), e.p.Prime → 3 < e.p → e.NonSingular →
    Claims.PointOver e P → Claims.PointOver e Q → Claims.PointOver e R →
    pointAdd (pointAdd P Q) R = pointAdd P (pointAdd Q R)

/-- R216 over a prime greater than 3 and a non-singular curve: the two scalar multiplications agree for every
scalar. R216 says it of every point; over some composite moduli the formulas contradict it (log 17). -/
def Obligations.AlgorithmsAgreeOnNonsingularCurves : Prop :=
  ∀ (e : CurveRec) (P : PointVal) (k : Nat), e.p.Prime → 3 < e.p → e.NonSingular →
    Claims.PointOver e P → mulNaive P k = mulBinary P k
end

