-- ==== Sys2Proof/Laws/Arith.lean ====
section
/-! SUPPORT. What the field functions compute: bounds, exact values, and the integer form of the
subtraction of R123. -/

namespace Sys2Proof.Machine

theorem reduce_lt {v p : Nat} (h : 0 < p) : reduce v p < p := Nat.mod_lt v h

theorem addMod_lt {p a b : Nat} (h : 0 < p) : addMod p a b < p := reduce_lt h

theorem mulMod_lt {p a b : Nat} (h : 0 < p) : mulMod p a b < p := reduce_lt h

theorem divMod_lt {p a b : Nat} (h : 0 < p) : divMod p a b < p := mulMod_lt h

/-- R123: no result exceeds the modulus, whatever residue is subtracted. -/
theorem subMod_lt {p a b : Nat} (ha : a < p) : subMod p a b < p := by
  unfold subMod; split <;> omega

/-- R123: the two branches are `a - b` modulo `p`. -/
theorem subMod_eq_emod {p a b : Nat} (ha : a < p) (hb : b < p) :
    ((subMod p a b : Nat) : Int) = ((a : Int) - b) % p := by
  unfold subMod
  split
  · rw [Int.emod_eq_of_lt] <;> omega
  · rw [← Int.add_mul_emod_self_left ((a : Int) - b) p 1, Int.emod_eq_of_lt] <;> omega

/-- The loop of square-and-multiply computes `acc * x^e`. -/
theorem powModLoop_eq (p : Nat) (fuel x acc e : Nat) (he : e < 2 ^ fuel) (hacc : acc % p = acc) :
    powModLoop p fuel x acc e = acc * x ^ e % p := by
  induction fuel generalizing x acc e with
  | zero =>
    have : e = 0 := by simpa using he
    subst this
    simp [powModLoop, hacc]
  | succ fuel ih =>
    unfold powModLoop
    split
    · rename_i h; subst h; simp [hacc]
    · have hlt : e / 2 < 2 ^ fuel := by rw [pow_succ] at he; omega
      have hdiv : x ^ e = (x * x) ^ (e / 2) * x ^ (e % 2) := by
        rw [← pow_two, ← pow_mul, ← pow_add, Nat.div_add_mod]
      rw [ih _ _ _ hlt (by split <;> simp [mulMod, reduce, hacc]), hdiv]
      rcases Nat.mod_two_eq_zero_or_one e with h | h <;> rw [h]
      · simp [mulMod, reduce, Nat.mul_mod, Nat.pow_mod]
      · simp only [mulMod, reduce, if_true, pow_one]
        have h1 : acc * ((x * x) ^ (e / 2) * x) = acc * x * (x * x) ^ (e / 2) := by ring
        rw [h1, Nat.mul_mod, Nat.mod_mod, Nat.mul_mod (acc * x), Nat.pow_mod (x * x),
          Nat.pow_mod (x * x % p), Nat.mod_mod]

/-- The exponentiation the model runs is the exact power, reduced (R9, R125). -/
theorem powMod_eq (p x e : Nat) : powMod p x e = x ^ e % p := by
  have he : e < 2 ^ (e.log2 + 1) := Nat.lt_log2_self
  rw [powMod, powModLoop_eq p _ _ _ _ he (by simp [reduce]), reduce, reduce, Nat.mul_mod,
    Nat.mod_mod, ← Nat.mul_mod, one_mul, ← Nat.pow_mod]

theorem powMod_lt {p x e : Nat} (h : 0 < p) : powMod p x e < p := by
  rw [powMod_eq]; exact Nat.mod_lt _ h

/-- R125, R126: a nonzero divisor divides, under either DIV0_MODE. -/
theorem fDiv_of_ne_zero (mode : Div0Mode) (p a : Nat) {b : Nat} (h : b ≠ 0) :
    fDiv mode ⟨a, p⟩ ⟨b, p⟩ = .ok ⟨divMod p a b, p⟩ := by
  unfold fDiv fInv
  rw [if_pos h]
  rfl

/-- R125: the inverse is the exact power `b^(p-2)`, reduced. -/
theorem invMod_eq (p b : Nat) : invMod p b = b ^ (p - 2) % p := powMod_eq p b (p - 2)

/-- R126: the quotient is `a * b^(p-2)`, reduced. -/
theorem divMod_eq (p a b : Nat) : divMod p a b = a * b ^ (p - 2) % p := by
  simp [divMod, mulMod, reduce, invMod_eq, Nat.mul_mod]

/-! ## Scalar multiplication -/

/-- One more repetition of R212 adds the point on the right once more. -/
theorem addRepeatedly_succ (P : PointVal) (n : Nat) (acc : PointVal) :
    addRepeatedly P (n + 1) acc = pointAdd (addRepeatedly P n acc) P := by
  induction n generalizing acc with
  | zero => rfl
  | succ n ih => rw [addRepeatedly, ih, addRepeatedly]

/-- R212: `MulNaive(P, 0)` is the Identity of the point's curve, and each further unit of `k` adds the
point once. -/
theorem mulNaive_zero (P : PointVal) : mulNaive P 0 = .ident P.curve := rfl

theorem mulNaive_one (P : PointVal) : mulNaive P 1 = P := rfl

theorem mulNaive_succ (P : PointVal) (k : Nat) (h : 0 < k) :
    mulNaive P (k + 1) = pointAdd (mulNaive P k) P := by
  obtain ⟨n, rfl⟩ : ∃ n, k = n + 1 := ⟨k - 1, by omega⟩
  simp [mulNaive, addRepeatedly_succ]

/-- The loop of R213 ends by itself: rounds beyond the scalar's bits change nothing. -/
theorem doubleAndAdd_fuel (f g : Nat) (r c : PointVal) (k : Nat) (hf : k < 2 ^ f) (hg : k < 2 ^ g) :
    doubleAndAdd f r c k = doubleAndAdd g r c k := by
  induction f generalizing g r c k with
  | zero =>
    have : k = 0 := by simpa using hf
    subst this
    cases g <;> simp [doubleAndAdd]
  | succ f ih =>
    cases g with
    | zero =>
      have : k = 0 := by simpa using hg
      subst this
      simp [doubleAndAdd]
    | succ g =>
      rw [pow_succ] at hf hg
      simp only [doubleAndAdd]
      split
      · rfl
      · exact ih g _ _ _ (by omega) (by omega)

/-- R213 with any number of rounds that is enough for the scalar. -/
theorem mulBinary_eq (P : PointVal) (k f : Nat) (hf : k < 2 ^ f) :
    mulBinary P k = doubleAndAdd f (.ident P.curve) P k :=
  doubleAndAdd_fuel _ _ _ _ _ Nat.lt_log2_self hf

/-! ## The group law keeps the curve record -/

/-- R175: a sum of matching points is bound to their curve. -/
theorem pointAdd_curve {P Q : PointVal} (h : P.curve = Q.curve) :
    (pointAdd P Q).curve = P.curve := by
  cases P with
  | ident e => exact h.symm
  | affine e x1 y1 =>
    cases Q with
    | ident e' => rfl
    | affine e' x2 y2 =>
      simp only [pointAdd]
      split_ifs <;> rfl

theorem addRepeatedly_curve (P : PointVal) (n : Nat) (acc : PointVal) (h : acc.curve = P.curve) :
    (addRepeatedly P n acc).curve = P.curve := by
  induction n generalizing acc with
  | zero => exact h
  | succ n ih => exact ih _ ((pointAdd_curve h).trans h)

theorem mulNaive_curve (P : PointVal) (k : Nat) : (mulNaive P k).curve = P.curve := by
  unfold mulNaive
  split
  · rfl
  · exact addRepeatedly_curve P _ P rfl

theorem doubleAndAdd_curve (f : Nat) (r c : PointVal) (k : Nat) (h : r.curve = c.curve) :
    (doubleAndAdd f r c k).curve = c.curve := by
  induction f generalizing r c k with
  | zero => exact h
  | succ f ih =>
    unfold doubleAndAdd
    split
    · exact h
    · have hc : (pointAdd c c).curve = c.curve := pointAdd_curve rfl
      rw [ih _ _ _ ?_, hc]
      split
      · rw [pointAdd_curve h, hc, h]
      · rw [hc, h]

theorem mulBinary_curve (P : PointVal) (k : Nat) : (mulBinary P k).curve = P.curve :=
  doubleAndAdd_curve _ _ _ _ rfl

end Sys2Proof.Machine
end

