-- ==== Sys2Proof/Laws/Decode.lean ====
section
/-! SUPPORT. The fields of a packed word, and when a row of the opcode table selects one. -/

namespace Sys2Proof

section Fields
variable (op : BitVec 8) (d a b c : RegIdx) (z : BitVec 8)

theorem pack_toNat :
    (pack op d a b c z).toNat =
      op.toNat * 2 ^ 24 + d.toNat * 2 ^ 20 + a.toNat * 2 ^ 16 + b.toNat * 2 ^ 12 +
        c.toNat * 2 ^ 8 + z.toNat := by
  have h1 := op.isLt; have h2 := d.isLt; have h3 := a.isLt; have h4 := b.isLt
  have h5 := c.isLt; have h6 := z.isLt
  simp only [pack, BitVec.toNat_append]
  rw [← Nat.shiftLeft_add_eq_or_of_lt h6, ← Nat.shiftLeft_add_eq_or_of_lt h5,
    ← Nat.shiftLeft_add_eq_or_of_lt h4, ← Nat.shiftLeft_add_eq_or_of_lt h3,
    ← Nat.shiftLeft_add_eq_or_of_lt h2]
  simp only [Nat.shiftLeft_eq]
  ring

@[simp] theorem opField_pack : opField (pack op d a b c z) = op := by
  have h1 := op.isLt; have h2 := d.isLt; have h3 := a.isLt; have h4 := b.isLt
  have h5 := c.isLt; have h6 := z.isLt
  apply BitVec.eq_of_toNat_eq
  simp only [opField, BitVec.extractLsb'_toNat, pack_toNat, Nat.shiftRight_eq_div_pow]
  omega

@[simp] theorem rdField_pack : rdField (pack op d a b c z) = d := by
  have h1 := op.isLt; have h2 := d.isLt; have h3 := a.isLt; have h4 := b.isLt
  have h5 := c.isLt; have h6 := z.isLt
  apply BitVec.eq_of_toNat_eq
  simp only [rdField, BitVec.extractLsb'_toNat, pack_toNat, Nat.shiftRight_eq_div_pow]
  omega

@[simp] theorem rs1Field_pack : rs1Field (pack op d a b c z) = a := by
  have h1 := op.isLt; have h2 := d.isLt; have h3 := a.isLt; have h4 := b.isLt
  have h5 := c.isLt; have h6 := z.isLt
  apply BitVec.eq_of_toNat_eq
  simp only [rs1Field, BitVec.extractLsb'_toNat, pack_toNat, Nat.shiftRight_eq_div_pow]
  omega

@[simp] theorem rs2Field_pack : rs2Field (pack op d a b c z) = b := by
  have h1 := op.isLt; have h2 := d.isLt; have h3 := a.isLt; have h4 := b.isLt
  have h5 := c.isLt; have h6 := z.isLt
  apply BitVec.eq_of_toNat_eq
  simp only [rs2Field, BitVec.extractLsb'_toNat, pack_toNat, Nat.shiftRight_eq_div_pow]
  omega

@[simp] theorem rs3Field_pack : rs3Field (pack op d a b c z) = c := by
  have h1 := op.isLt; have h2 := d.isLt; have h3 := a.isLt; have h4 := b.isLt
  have h5 := c.isLt; have h6 := z.isLt
  apply BitVec.eq_of_toNat_eq
  simp only [rs3Field, BitVec.extractLsb'_toNat, pack_toNat, Nat.shiftRight_eq_div_pow]
  omega

@[simp] theorem zField_pack : zField (pack op d a b c z) = z := by
  have h5 := c.isLt; have h6 := z.isLt
  apply BitVec.eq_of_toNat_eq
  simp only [zField, BitVec.extractLsb'_toNat, pack_toNat, Nat.shiftRight_eq_div_pow]
  omega

end Fields

/-- R90: a word is the concatenation of its fields. -/
theorem pack_fields (w : Word) :
    pack (opField w) (rdField w) (rs1Field w) (rs2Field w) (rs3Field w) (zField w) = w := by
  have h := w.isLt
  apply BitVec.eq_of_toNat_eq
  simp only [pack_toNat, opField, rdField, rs1Field, rs2Field, rs3Field, zField,
    BitVec.extractLsb'_toNat, Nat.shiftRight_eq_div_pow]
  omega

/-- Two packed words are equal when their fields are. -/
theorem pack_inj {op op' z z' : BitVec 8} {d d' a a' b b' c c' : RegIdx} :
    pack op d a b c z = pack op' d' a' b' c' z' ↔
      op = op' ∧ d = d' ∧ a = a' ∧ b = b' ∧ c = c' ∧ z = z' := by
  constructor
  · intro h
    refine ⟨?_, ?_, ?_, ?_, ?_, ?_⟩
    · simpa using congrArg opField h
    · simpa using congrArg rdField h
    · simpa using congrArg rs1Field h
    · simpa using congrArg rs2Field h
    · simpa using congrArg rs3Field h
    · simpa using congrArg zField h
  · rintro ⟨rfl, rfl, rfl, rfl, rfl, rfl⟩
    rfl

/-- The fields of a bitwise and are the ands of the fields. -/
theorem pack_and (op op' z z' : BitVec 8) (d d' a a' b b' c c' : RegIdx) :
    pack op d a b c z &&& pack op' d' a' b' c' z' =
      pack (op &&& op') (d &&& d') (a &&& a') (b &&& b') (c &&& c') (z &&& z') := by
  have h : ((op ++ d ++ a ++ b ++ c ++ z : BitVec (8 + 4 + 4 + 4 + 4 + 8)) &&&
      (op' ++ d' ++ a' ++ b' ++ c' ++ z')) =
      (op &&& op') ++ (d &&& d') ++ (a &&& a') ++ (b &&& b') ++ (c &&& c') ++ (z &&& z') := by
    simp only [BitVec.and_append]
  exact h

/-- The mask of a register field of R92: its bits are looked at only where the field is unused. -/
def fieldMask (cls : Option RegClass) : RegIdx := if cls.isSome then 0x0 else 0xF

/-- R92: the mask of every row is 1 in the opcode, in `z` and in the unused fields, and its match value is
its opcode with every other field 0. -/
theorem opcodeTable_shape : ∀ r ∈ opcodeTable,
    r.mask = pack 0xFF (fieldMask r.rd) (fieldMask r.rs1) (fieldMask r.rs2) (fieldMask r.rs3) 0xFF ∧
    r.pattern = pack (opField r.pattern) 0 0 0 0 0 := by
  decide

/-- R92: distinct rows have distinct opcodes. -/
theorem opcodeTable_opcodes :
    opcodeTable.Pairwise (fun r r' => opField r.pattern ≠ opField r'.pattern) := by
  decide

/-- R92, R93: a row selects a word when the opcode is the row's, the unused fields are 0 and `z` is 0. -/
theorem row_selects_iff {r : Row} (hr : r ∈ opcodeTable) (w : Word) :
    r.selects w = true ↔
      opField w = opField r.pattern ∧ (r.rd = none → rdField w = 0) ∧
      (r.rs1 = none → rs1Field w = 0) ∧ (r.rs2 = none → rs2Field w = 0) ∧
      (r.rs3 = none → rs3Field w = 0) ∧ zField w = 0 := by
  obtain ⟨hm, hp⟩ := opcodeTable_shape r hr
  have key : ∀ (cls : Option RegClass) (x : RegIdx),
      x &&& fieldMask cls = 0 ↔ (cls = none → x = 0) := by
    intro cls x
    have hF : x &&& 0xF = x := BitVec.and_allOnes
    cases cls with
    | none => exact ⟨fun h _ => hF ▸ h, fun h => hF.trans (h rfl)⟩
    | some k => simp [fieldMask]
  have h8 : ∀ x : BitVec 8, x &&& 0xFF = x := fun x => BitVec.and_allOnes
  unfold Row.selects
  rw [decide_eq_true_iff]
  conv_lhs => rw [← pack_fields w, hm, pack_and, hp, pack_inj]
  rw [key, key, key, key, h8, h8]

/-- A row selects every word packed from its opcode, its used fields and zeros elsewhere. -/
theorem row_selects_pack {r : Row} (hr : r ∈ opcodeTable) {op : BitVec 8} {d a b c : RegIdx}
    (hop : opField r.pattern = op) (hd : r.rd = none → d = 0) (ha : r.rs1 = none → a = 0)
    (hb : r.rs2 = none → b = 0) (hc : r.rs3 = none → c = 0) :
    r.selects (pack op d a b c 0) = true := by
  rw [row_selects_iff hr]
  simpa [hop] using ⟨hd, ha, hb, hc⟩

end Sys2Proof
end

