-- ==== Sys2Proof/Laws/State.lean ====
section
/-! SUPPORT. One lemma per field per state update, each true by rfl, so that no proof unfolds a record
update. -/

namespace Sys2Proof.Machine

variable (s : State)

/-! ### State.writeF -/

@[simp] theorem State.writeF_cfg (i : RegIdx) (v : Felt) : (s.writeF i v).cfg = s.cfg := rfl
@[simp] theorem State.writeF_fregs (i : RegIdx) (v : Felt) : (s.writeF i v).fregs = writeReg s.fregs i v := rfl
@[simp] theorem State.writeF_cregs (i : RegIdx) (v : Felt) : (s.writeF i v).cregs = s.cregs := rfl
@[simp] theorem State.writeF_pregs (i : RegIdx) (v : Felt) : (s.writeF i v).pregs = s.pregs := rfl
@[simp] theorem State.writeF_sregs (i : RegIdx) (v : Felt) : (s.writeF i v).sregs = s.sregs := rfl
@[simp] theorem State.writeF_t (i : RegIdx) (v : Felt) : (s.writeF i v).t = s.t := rfl
@[simp] theorem State.writeF_dataA (i : RegIdx) (v : Felt) : (s.writeF i v).dataA = s.dataA := rfl
@[simp] theorem State.writeF_dataB (i : RegIdx) (v : Felt) : (s.writeF i v).dataB = s.dataB := rfl
@[simp] theorem State.writeF_busy (i : RegIdx) (v : Felt) : (s.writeF i v).busy = s.busy := rfl
@[simp] theorem State.writeF_done (i : RegIdx) (v : Felt) : (s.writeF i v).done = s.done := rfl
@[simp] theorem State.writeF_err (i : RegIdx) (v : Felt) : (s.writeF i v).err = s.err := rfl
@[simp] theorem State.writeF_stickyErr (i : RegIdx) (v : Felt) : (s.writeF i v).stickyErr = s.stickyErr := rfl
@[simp] theorem State.writeF_ovr (i : RegIdx) (v : Felt) : (s.writeF i v).ovr = s.ovr := rfl
@[simp] theorem State.writeF_ecode (i : RegIdx) (v : Felt) : (s.writeF i v).ecode = s.ecode := rfl
@[simp] theorem State.writeF_cmd (i : RegIdx) (v : Felt) : (s.writeF i v).cmd = s.cmd := rfl
@[simp] theorem State.writeF_resetLine (i : RegIdx) (v : Felt) : (s.writeF i v).resetLine = s.resetLine := rfl
@[simp] theorem State.writeF_agenda (i : RegIdx) (v : Felt) : (s.writeF i v).agenda = s.agenda := rfl
@[simp] theorem State.writeF_response (i : RegIdx) (v : Felt) : (s.writeF i v).response = s.response := rfl

/-! ### State.writeC -/

@[simp] theorem State.writeC_cfg (i : RegIdx) (v : CurveRec) : (s.writeC i v).cfg = s.cfg := rfl
@[simp] theorem State.writeC_fregs (i : RegIdx) (v : CurveRec) : (s.writeC i v).fregs = s.fregs := rfl
@[simp] theorem State.writeC_cregs (i : RegIdx) (v : CurveRec) : (s.writeC i v).cregs = writeReg s.cregs i v := rfl
@[simp] theorem State.writeC_pregs (i : RegIdx) (v : CurveRec) : (s.writeC i v).pregs = s.pregs := rfl
@[simp] theorem State.writeC_sregs (i : RegIdx) (v : CurveRec) : (s.writeC i v).sregs = s.sregs := rfl
@[simp] theorem State.writeC_t (i : RegIdx) (v : CurveRec) : (s.writeC i v).t = s.t := rfl
@[simp] theorem State.writeC_dataA (i : RegIdx) (v : CurveRec) : (s.writeC i v).dataA = s.dataA := rfl
@[simp] theorem State.writeC_dataB (i : RegIdx) (v : CurveRec) : (s.writeC i v).dataB = s.dataB := rfl
@[simp] theorem State.writeC_busy (i : RegIdx) (v : CurveRec) : (s.writeC i v).busy = s.busy := rfl
@[simp] theorem State.writeC_done (i : RegIdx) (v : CurveRec) : (s.writeC i v).done = s.done := rfl
@[simp] theorem State.writeC_err (i : RegIdx) (v : CurveRec) : (s.writeC i v).err = s.err := rfl
@[simp] theorem State.writeC_stickyErr (i : RegIdx) (v : CurveRec) : (s.writeC i v).stickyErr = s.stickyErr := rfl
@[simp] theorem State.writeC_ovr (i : RegIdx) (v : CurveRec) : (s.writeC i v).ovr = s.ovr := rfl
@[simp] theorem State.writeC_ecode (i : RegIdx) (v : CurveRec) : (s.writeC i v).ecode = s.ecode := rfl
@[simp] theorem State.writeC_cmd (i : RegIdx) (v : CurveRec) : (s.writeC i v).cmd = s.cmd := rfl
@[simp] theorem State.writeC_resetLine (i : RegIdx) (v : CurveRec) : (s.writeC i v).resetLine = s.resetLine := rfl
@[simp] theorem State.writeC_agenda (i : RegIdx) (v : CurveRec) : (s.writeC i v).agenda = s.agenda := rfl
@[simp] theorem State.writeC_response (i : RegIdx) (v : CurveRec) : (s.writeC i v).response = s.response := rfl

/-! ### State.writeP -/

@[simp] theorem State.writeP_cfg (i : RegIdx) (v : PointVal) : (s.writeP i v).cfg = s.cfg := rfl
@[simp] theorem State.writeP_fregs (i : RegIdx) (v : PointVal) : (s.writeP i v).fregs = s.fregs := rfl
@[simp] theorem State.writeP_cregs (i : RegIdx) (v : PointVal) : (s.writeP i v).cregs = s.cregs := rfl
@[simp] theorem State.writeP_pregs (i : RegIdx) (v : PointVal) : (s.writeP i v).pregs = writeReg s.pregs i v := rfl
@[simp] theorem State.writeP_sregs (i : RegIdx) (v : PointVal) : (s.writeP i v).sregs = s.sregs := rfl
@[simp] theorem State.writeP_t (i : RegIdx) (v : PointVal) : (s.writeP i v).t = s.t := rfl
@[simp] theorem State.writeP_dataA (i : RegIdx) (v : PointVal) : (s.writeP i v).dataA = s.dataA := rfl
@[simp] theorem State.writeP_dataB (i : RegIdx) (v : PointVal) : (s.writeP i v).dataB = s.dataB := rfl
@[simp] theorem State.writeP_busy (i : RegIdx) (v : PointVal) : (s.writeP i v).busy = s.busy := rfl
@[simp] theorem State.writeP_done (i : RegIdx) (v : PointVal) : (s.writeP i v).done = s.done := rfl
@[simp] theorem State.writeP_err (i : RegIdx) (v : PointVal) : (s.writeP i v).err = s.err := rfl
@[simp] theorem State.writeP_stickyErr (i : RegIdx) (v : PointVal) : (s.writeP i v).stickyErr = s.stickyErr := rfl
@[simp] theorem State.writeP_ovr (i : RegIdx) (v : PointVal) : (s.writeP i v).ovr = s.ovr := rfl
@[simp] theorem State.writeP_ecode (i : RegIdx) (v : PointVal) : (s.writeP i v).ecode = s.ecode := rfl
@[simp] theorem State.writeP_cmd (i : RegIdx) (v : PointVal) : (s.writeP i v).cmd = s.cmd := rfl
@[simp] theorem State.writeP_resetLine (i : RegIdx) (v : PointVal) : (s.writeP i v).resetLine = s.resetLine := rfl
@[simp] theorem State.writeP_agenda (i : RegIdx) (v : PointVal) : (s.writeP i v).agenda = s.agenda := rfl
@[simp] theorem State.writeP_response (i : RegIdx) (v : PointVal) : (s.writeP i v).response = s.response := rfl

/-! ### State.writeS -/

@[simp] theorem State.writeS_cfg (i : RegIdx) (v : Nat) : (s.writeS i v).cfg = s.cfg := rfl
@[simp] theorem State.writeS_fregs (i : RegIdx) (v : Nat) : (s.writeS i v).fregs = s.fregs := rfl
@[simp] theorem State.writeS_cregs (i : RegIdx) (v : Nat) : (s.writeS i v).cregs = s.cregs := rfl
@[simp] theorem State.writeS_pregs (i : RegIdx) (v : Nat) : (s.writeS i v).pregs = s.pregs := rfl
@[simp] theorem State.writeS_sregs (i : RegIdx) (v : Nat) : (s.writeS i v).sregs = writeReg s.sregs i v := rfl
@[simp] theorem State.writeS_t (i : RegIdx) (v : Nat) : (s.writeS i v).t = s.t := rfl
@[simp] theorem State.writeS_dataA (i : RegIdx) (v : Nat) : (s.writeS i v).dataA = s.dataA := rfl
@[simp] theorem State.writeS_dataB (i : RegIdx) (v : Nat) : (s.writeS i v).dataB = s.dataB := rfl
@[simp] theorem State.writeS_busy (i : RegIdx) (v : Nat) : (s.writeS i v).busy = s.busy := rfl
@[simp] theorem State.writeS_done (i : RegIdx) (v : Nat) : (s.writeS i v).done = s.done := rfl
@[simp] theorem State.writeS_err (i : RegIdx) (v : Nat) : (s.writeS i v).err = s.err := rfl
@[simp] theorem State.writeS_stickyErr (i : RegIdx) (v : Nat) : (s.writeS i v).stickyErr = s.stickyErr := rfl
@[simp] theorem State.writeS_ovr (i : RegIdx) (v : Nat) : (s.writeS i v).ovr = s.ovr := rfl
@[simp] theorem State.writeS_ecode (i : RegIdx) (v : Nat) : (s.writeS i v).ecode = s.ecode := rfl
@[simp] theorem State.writeS_cmd (i : RegIdx) (v : Nat) : (s.writeS i v).cmd = s.cmd := rfl
@[simp] theorem State.writeS_resetLine (i : RegIdx) (v : Nat) : (s.writeS i v).resetLine = s.resetLine := rfl
@[simp] theorem State.writeS_agenda (i : RegIdx) (v : Nat) : (s.writeS i v).agenda = s.agenda := rfl
@[simp] theorem State.writeS_response (i : RegIdx) (v : Nat) : (s.writeS i v).response = s.response := rfl

/-! ### State.setDataA -/

@[simp] theorem State.setDataA_cfg (v : Nat) : (s.setDataA v).cfg = s.cfg := rfl
@[simp] theorem State.setDataA_fregs (v : Nat) : (s.setDataA v).fregs = s.fregs := rfl
@[simp] theorem State.setDataA_cregs (v : Nat) : (s.setDataA v).cregs = s.cregs := rfl
@[simp] theorem State.setDataA_pregs (v : Nat) : (s.setDataA v).pregs = s.pregs := rfl
@[simp] theorem State.setDataA_sregs (v : Nat) : (s.setDataA v).sregs = s.sregs := rfl
@[simp] theorem State.setDataA_t (v : Nat) : (s.setDataA v).t = s.t := rfl
@[simp] theorem State.setDataA_dataA (v : Nat) : (s.setDataA v).dataA = v := rfl
@[simp] theorem State.setDataA_dataB (v : Nat) : (s.setDataA v).dataB = s.dataB := rfl
@[simp] theorem State.setDataA_busy (v : Nat) : (s.setDataA v).busy = s.busy := rfl
@[simp] theorem State.setDataA_done (v : Nat) : (s.setDataA v).done = s.done := rfl
@[simp] theorem State.setDataA_err (v : Nat) : (s.setDataA v).err = s.err := rfl
@[simp] theorem State.setDataA_stickyErr (v : Nat) : (s.setDataA v).stickyErr = s.stickyErr := rfl
@[simp] theorem State.setDataA_ovr (v : Nat) : (s.setDataA v).ovr = s.ovr := rfl
@[simp] theorem State.setDataA_ecode (v : Nat) : (s.setDataA v).ecode = s.ecode := rfl
@[simp] theorem State.setDataA_cmd (v : Nat) : (s.setDataA v).cmd = s.cmd := rfl
@[simp] theorem State.setDataA_resetLine (v : Nat) : (s.setDataA v).resetLine = s.resetLine := rfl
@[simp] theorem State.setDataA_agenda (v : Nat) : (s.setDataA v).agenda = s.agenda := rfl
@[simp] theorem State.setDataA_response (v : Nat) : (s.setDataA v).response = s.response := rfl

/-! ### State.setDataB -/

@[simp] theorem State.setDataB_cfg (v : Nat) : (s.setDataB v).cfg = s.cfg := rfl
@[simp] theorem State.setDataB_fregs (v : Nat) : (s.setDataB v).fregs = s.fregs := rfl
@[simp] theorem State.setDataB_cregs (v : Nat) : (s.setDataB v).cregs = s.cregs := rfl
@[simp] theorem State.setDataB_pregs (v : Nat) : (s.setDataB v).pregs = s.pregs := rfl
@[simp] theorem State.setDataB_sregs (v : Nat) : (s.setDataB v).sregs = s.sregs := rfl
@[simp] theorem State.setDataB_t (v : Nat) : (s.setDataB v).t = s.t := rfl
@[simp] theorem State.setDataB_dataA (v : Nat) : (s.setDataB v).dataA = s.dataA := rfl
@[simp] theorem State.setDataB_dataB (v : Nat) : (s.setDataB v).dataB = v := rfl
@[simp] theorem State.setDataB_busy (v : Nat) : (s.setDataB v).busy = s.busy := rfl
@[simp] theorem State.setDataB_done (v : Nat) : (s.setDataB v).done = s.done := rfl
@[simp] theorem State.setDataB_err (v : Nat) : (s.setDataB v).err = s.err := rfl
@[simp] theorem State.setDataB_stickyErr (v : Nat) : (s.setDataB v).stickyErr = s.stickyErr := rfl
@[simp] theorem State.setDataB_ovr (v : Nat) : (s.setDataB v).ovr = s.ovr := rfl
@[simp] theorem State.setDataB_ecode (v : Nat) : (s.setDataB v).ecode = s.ecode := rfl
@[simp] theorem State.setDataB_cmd (v : Nat) : (s.setDataB v).cmd = s.cmd := rfl
@[simp] theorem State.setDataB_resetLine (v : Nat) : (s.setDataB v).resetLine = s.resetLine := rfl
@[simp] theorem State.setDataB_agenda (v : Nat) : (s.setDataB v).agenda = s.agenda := rfl
@[simp] theorem State.setDataB_response (v : Nat) : (s.setDataB v).response = s.response := rfl

/-! ### State.setT -/

@[simp] theorem State.setT_cfg (b : Bool) : (s.setT b).cfg = s.cfg := rfl
@[simp] theorem State.setT_fregs (b : Bool) : (s.setT b).fregs = s.fregs := rfl
@[simp] theorem State.setT_cregs (b : Bool) : (s.setT b).cregs = s.cregs := rfl
@[simp] theorem State.setT_pregs (b : Bool) : (s.setT b).pregs = s.pregs := rfl
@[simp] theorem State.setT_sregs (b : Bool) : (s.setT b).sregs = s.sregs := rfl
@[simp] theorem State.setT_t (b : Bool) : (s.setT b).t = b := rfl
@[simp] theorem State.setT_dataA (b : Bool) : (s.setT b).dataA = s.dataA := rfl
@[simp] theorem State.setT_dataB (b : Bool) : (s.setT b).dataB = s.dataB := rfl
@[simp] theorem State.setT_busy (b : Bool) : (s.setT b).busy = s.busy := rfl
@[simp] theorem State.setT_done (b : Bool) : (s.setT b).done = s.done := rfl
@[simp] theorem State.setT_err (b : Bool) : (s.setT b).err = s.err := rfl
@[simp] theorem State.setT_stickyErr (b : Bool) : (s.setT b).stickyErr = s.stickyErr := rfl
@[simp] theorem State.setT_ovr (b : Bool) : (s.setT b).ovr = s.ovr := rfl
@[simp] theorem State.setT_ecode (b : Bool) : (s.setT b).ecode = s.ecode := rfl
@[simp] theorem State.setT_cmd (b : Bool) : (s.setT b).cmd = s.cmd := rfl
@[simp] theorem State.setT_resetLine (b : Bool) : (s.setT b).resetLine = s.resetLine := rfl
@[simp] theorem State.setT_agenda (b : Bool) : (s.setT b).agenda = s.agenda := rfl
@[simp] theorem State.setT_response (b : Bool) : (s.setT b).response = s.response := rfl

/-! ### issue -/

@[simp] theorem issue_cfg (w : Word) : (issue w s).cfg = s.cfg := rfl
@[simp] theorem issue_fregs (w : Word) : (issue w s).fregs = s.fregs := rfl
@[simp] theorem issue_cregs (w : Word) : (issue w s).cregs = s.cregs := rfl
@[simp] theorem issue_pregs (w : Word) : (issue w s).pregs = s.pregs := rfl
@[simp] theorem issue_sregs (w : Word) : (issue w s).sregs = s.sregs := rfl
@[simp] theorem issue_t (w : Word) : (issue w s).t = s.t := rfl
@[simp] theorem issue_dataA (w : Word) : (issue w s).dataA = s.dataA := rfl
@[simp] theorem issue_dataB (w : Word) : (issue w s).dataB = s.dataB := rfl
@[simp] theorem issue_busy (w : Word) : (issue w s).busy = true := rfl
@[simp] theorem issue_done (w : Word) : (issue w s).done = false := rfl
@[simp] theorem issue_err (w : Word) : (issue w s).err = false := rfl
@[simp] theorem issue_stickyErr (w : Word) : (issue w s).stickyErr = s.stickyErr := rfl
@[simp] theorem issue_ovr (w : Word) : (issue w s).ovr = s.ovr := rfl
@[simp] theorem issue_ecode (w : Word) : (issue w s).ecode = 0 := rfl
@[simp] theorem issue_cmd (w : Word) : (issue w s).cmd = w := rfl
@[simp] theorem issue_resetLine (w : Word) : (issue w s).resetLine = s.resetLine := rfl
@[simp] theorem issue_agenda (w : Word) : (issue w s).agenda = s.agenda := rfl
@[simp] theorem issue_response (w : Word) : (issue w s).response = s.response := rfl

/-! ### commitDone -/

@[simp] theorem commitDone_cfg : (commitDone s).cfg = s.cfg := rfl
@[simp] theorem commitDone_fregs : (commitDone s).fregs = s.fregs := rfl
@[simp] theorem commitDone_cregs : (commitDone s).cregs = s.cregs := rfl
@[simp] theorem commitDone_pregs : (commitDone s).pregs = s.pregs := rfl
@[simp] theorem commitDone_sregs : (commitDone s).sregs = s.sregs := rfl
@[simp] theorem commitDone_t : (commitDone s).t = s.t := rfl
@[simp] theorem commitDone_dataA : (commitDone s).dataA = s.dataA := rfl
@[simp] theorem commitDone_dataB : (commitDone s).dataB = s.dataB := rfl
@[simp] theorem commitDone_busy : (commitDone s).busy = false := rfl
@[simp] theorem commitDone_done : (commitDone s).done = true := rfl
@[simp] theorem commitDone_err : (commitDone s).err = s.err := rfl
@[simp] theorem commitDone_stickyErr : (commitDone s).stickyErr = s.stickyErr := rfl
@[simp] theorem commitDone_ovr : (commitDone s).ovr = s.ovr := rfl
@[simp] theorem commitDone_ecode : (commitDone s).ecode = s.ecode := rfl
@[simp] theorem commitDone_cmd : (commitDone s).cmd = s.cmd := rfl
@[simp] theorem commitDone_resetLine : (commitDone s).resetLine = s.resetLine := rfl
@[simp] theorem commitDone_agenda : (commitDone s).agenda = s.agenda := rfl
@[simp] theorem commitDone_response : (commitDone s).response = s.response := rfl

/-! ### errorEntry -/

@[simp] theorem errorEntry_cfg (e : ErrorKind) : (errorEntry e s).cfg = s.cfg := rfl
@[simp] theorem errorEntry_fregs (e : ErrorKind) : (errorEntry e s).fregs = s.fregs := rfl
@[simp] theorem errorEntry_cregs (e : ErrorKind) : (errorEntry e s).cregs = s.cregs := rfl
@[simp] theorem errorEntry_pregs (e : ErrorKind) : (errorEntry e s).pregs = s.pregs := rfl
@[simp] theorem errorEntry_sregs (e : ErrorKind) : (errorEntry e s).sregs = s.sregs := rfl
@[simp] theorem errorEntry_t (e : ErrorKind) : (errorEntry e s).t = s.t := rfl
@[simp] theorem errorEntry_dataA (e : ErrorKind) : (errorEntry e s).dataA = s.dataA := rfl
@[simp] theorem errorEntry_dataB (e : ErrorKind) : (errorEntry e s).dataB = s.dataB := rfl
@[simp] theorem errorEntry_busy (e : ErrorKind) : (errorEntry e s).busy = false := rfl
@[simp] theorem errorEntry_done (e : ErrorKind) : (errorEntry e s).done = true := rfl
@[simp] theorem errorEntry_err (e : ErrorKind) : (errorEntry e s).err = true := rfl
@[simp] theorem errorEntry_stickyErr (e : ErrorKind) : (errorEntry e s).stickyErr = true := rfl
@[simp] theorem errorEntry_ovr (e : ErrorKind) : (errorEntry e s).ovr = s.ovr := rfl
@[simp] theorem errorEntry_ecode (e : ErrorKind) : (errorEntry e s).ecode = e.code := rfl
@[simp] theorem errorEntry_cmd (e : ErrorKind) : (errorEntry e s).cmd = s.cmd := rfl
@[simp] theorem errorEntry_resetLine (e : ErrorKind) : (errorEntry e s).resetLine = s.resetLine := rfl
@[simp] theorem errorEntry_agenda (e : ErrorKind) : (errorEntry e s).agenda = s.agenda := rfl
@[simp] theorem errorEntry_response (e : ErrorKind) : (errorEntry e s).response = s.response := rfl

/-! ### dropWrite -/

@[simp] theorem dropWrite_cfg : (dropWrite s).cfg = s.cfg := rfl
@[simp] theorem dropWrite_fregs : (dropWrite s).fregs = s.fregs := rfl
@[simp] theorem dropWrite_cregs : (dropWrite s).cregs = s.cregs := rfl
@[simp] theorem dropWrite_pregs : (dropWrite s).pregs = s.pregs := rfl
@[simp] theorem dropWrite_sregs : (dropWrite s).sregs = s.sregs := rfl
@[simp] theorem dropWrite_t : (dropWrite s).t = s.t := rfl
@[simp] theorem dropWrite_dataA : (dropWrite s).dataA = s.dataA := rfl
@[simp] theorem dropWrite_dataB : (dropWrite s).dataB = s.dataB := rfl
@[simp] theorem dropWrite_busy : (dropWrite s).busy = s.busy := rfl
@[simp] theorem dropWrite_done : (dropWrite s).done = s.done := rfl
@[simp] theorem dropWrite_err : (dropWrite s).err = s.err := rfl
@[simp] theorem dropWrite_stickyErr : (dropWrite s).stickyErr = s.stickyErr := rfl
@[simp] theorem dropWrite_ovr : (dropWrite s).ovr = true := rfl
@[simp] theorem dropWrite_ecode : (dropWrite s).ecode = s.ecode := rfl
@[simp] theorem dropWrite_cmd : (dropWrite s).cmd = s.cmd := rfl
@[simp] theorem dropWrite_resetLine : (dropWrite s).resetLine = s.resetLine := rfl
@[simp] theorem dropWrite_agenda : (dropWrite s).agenda = s.agenda := rfl
@[simp] theorem dropWrite_response : (dropWrite s).response = s.response := rfl

/-! ### writeStatus -/

@[simp] theorem writeStatus_cfg (v : Word) : (writeStatus s v).cfg = s.cfg := rfl
@[simp] theorem writeStatus_fregs (v : Word) : (writeStatus s v).fregs = s.fregs := rfl
@[simp] theorem writeStatus_cregs (v : Word) : (writeStatus s v).cregs = s.cregs := rfl
@[simp] theorem writeStatus_pregs (v : Word) : (writeStatus s v).pregs = s.pregs := rfl
@[simp] theorem writeStatus_sregs (v : Word) : (writeStatus s v).sregs = s.sregs := rfl
@[simp] theorem writeStatus_t (v : Word) : (writeStatus s v).t = s.t := rfl
@[simp] theorem writeStatus_dataA (v : Word) : (writeStatus s v).dataA = s.dataA := rfl
@[simp] theorem writeStatus_dataB (v : Word) : (writeStatus s v).dataB = s.dataB := rfl
@[simp] theorem writeStatus_busy (v : Word) : (writeStatus s v).busy = s.busy := rfl
@[simp] theorem writeStatus_done (v : Word) : (writeStatus s v).done = s.done := rfl
@[simp] theorem writeStatus_err (v : Word) : (writeStatus s v).err = s.err := rfl
@[simp] theorem writeStatus_stickyErr (v : Word) : (writeStatus s v).stickyErr = (s.stickyErr && !v.getLsbD 4) := rfl
@[simp] theorem writeStatus_ovr (v : Word) : (writeStatus s v).ovr = (s.ovr && !v.getLsbD 5) := rfl
@[simp] theorem writeStatus_ecode (v : Word) : (writeStatus s v).ecode = s.ecode := rfl
@[simp] theorem writeStatus_cmd (v : Word) : (writeStatus s v).cmd = s.cmd := rfl
@[simp] theorem writeStatus_resetLine (v : Word) : (writeStatus s v).resetLine = s.resetLine := rfl
@[simp] theorem writeStatus_agenda (v : Word) : (writeStatus s v).agenda = s.agenda := rfl
@[simp] theorem writeStatus_response (v : Word) : (writeStatus s v).response = s.response := rfl

/-! ### respond -/

@[simp] theorem respond_cfg (r : Response) : (respond s r).cfg = s.cfg := rfl
@[simp] theorem respond_fregs (r : Response) : (respond s r).fregs = s.fregs := rfl
@[simp] theorem respond_cregs (r : Response) : (respond s r).cregs = s.cregs := rfl
@[simp] theorem respond_pregs (r : Response) : (respond s r).pregs = s.pregs := rfl
@[simp] theorem respond_sregs (r : Response) : (respond s r).sregs = s.sregs := rfl
@[simp] theorem respond_t (r : Response) : (respond s r).t = s.t := rfl
@[simp] theorem respond_dataA (r : Response) : (respond s r).dataA = s.dataA := rfl
@[simp] theorem respond_dataB (r : Response) : (respond s r).dataB = s.dataB := rfl
@[simp] theorem respond_busy (r : Response) : (respond s r).busy = s.busy := rfl
@[simp] theorem respond_done (r : Response) : (respond s r).done = s.done := rfl
@[simp] theorem respond_err (r : Response) : (respond s r).err = s.err := rfl
@[simp] theorem respond_stickyErr (r : Response) : (respond s r).stickyErr = s.stickyErr := rfl
@[simp] theorem respond_ovr (r : Response) : (respond s r).ovr = s.ovr := rfl
@[simp] theorem respond_ecode (r : Response) : (respond s r).ecode = s.ecode := rfl
@[simp] theorem respond_cmd (r : Response) : (respond s r).cmd = s.cmd := rfl
@[simp] theorem respond_resetLine (r : Response) : (respond s r).resetLine = s.resetLine := rfl
@[simp] theorem respond_agenda (r : Response) : (respond s r).agenda = s.agenda := rfl
@[simp] theorem respond_response (r : Response) : (respond s r).response = some r := rfl

/-! ### popEvent -/

@[simp] theorem popEvent_cfg : (popEvent s).cfg = s.cfg := rfl
@[simp] theorem popEvent_fregs : (popEvent s).fregs = s.fregs := rfl
@[simp] theorem popEvent_cregs : (popEvent s).cregs = s.cregs := rfl
@[simp] theorem popEvent_pregs : (popEvent s).pregs = s.pregs := rfl
@[simp] theorem popEvent_sregs : (popEvent s).sregs = s.sregs := rfl
@[simp] theorem popEvent_t : (popEvent s).t = s.t := rfl
@[simp] theorem popEvent_dataA : (popEvent s).dataA = s.dataA := rfl
@[simp] theorem popEvent_dataB : (popEvent s).dataB = s.dataB := rfl
@[simp] theorem popEvent_busy : (popEvent s).busy = s.busy := rfl
@[simp] theorem popEvent_done : (popEvent s).done = s.done := rfl
@[simp] theorem popEvent_err : (popEvent s).err = s.err := rfl
@[simp] theorem popEvent_stickyErr : (popEvent s).stickyErr = s.stickyErr := rfl
@[simp] theorem popEvent_ovr : (popEvent s).ovr = s.ovr := rfl
@[simp] theorem popEvent_ecode : (popEvent s).ecode = s.ecode := rfl
@[simp] theorem popEvent_cmd : (popEvent s).cmd = s.cmd := rfl
@[simp] theorem popEvent_resetLine : (popEvent s).resetLine = s.resetLine := rfl
@[simp] theorem popEvent_agenda : (popEvent s).agenda = s.agenda.tail := rfl
@[simp] theorem popEvent_response : (popEvent s).response = s.response := rfl

/-! ### resetDevice -/

@[simp] theorem resetDevice_cfg : (resetDevice s).cfg = s.cfg := rfl
@[simp] theorem resetDevice_fregs : (resetDevice s).fregs = List.replicate s.cfg.nf none := rfl
@[simp] theorem resetDevice_cregs : (resetDevice s).cregs = List.replicate s.cfg.nc none := rfl
@[simp] theorem resetDevice_pregs : (resetDevice s).pregs = List.replicate s.cfg.np none := rfl
@[simp] theorem resetDevice_sregs : (resetDevice s).sregs = List.replicate s.cfg.ns none := rfl
@[simp] theorem resetDevice_t : (resetDevice s).t = false := rfl
@[simp] theorem resetDevice_dataA : (resetDevice s).dataA = 0 := rfl
@[simp] theorem resetDevice_dataB : (resetDevice s).dataB = 0 := rfl
@[simp] theorem resetDevice_busy : (resetDevice s).busy = false := rfl
@[simp] theorem resetDevice_done : (resetDevice s).done = false := rfl
@[simp] theorem resetDevice_err : (resetDevice s).err = false := rfl
@[simp] theorem resetDevice_stickyErr : (resetDevice s).stickyErr = false := rfl
@[simp] theorem resetDevice_ovr : (resetDevice s).ovr = false := rfl
@[simp] theorem resetDevice_ecode : (resetDevice s).ecode = 0 := rfl
@[simp] theorem resetDevice_cmd : (resetDevice s).cmd = 0 := rfl
@[simp] theorem resetDevice_resetLine : (resetDevice s).resetLine = s.resetLine := rfl
@[simp] theorem resetDevice_agenda : (resetDevice s).agenda = s.agenda := rfl
@[simp] theorem resetDevice_response : (resetDevice s).response = s.response := rfl

end Sys2Proof.Machine
end

