-- ==== Sys2Proof/Laws/Ops.lean ====
section
/-! SUPPORT. What the register files, the two ways to commit and the operand forms can do. -/

namespace Sys2Proof.Machine

/-! ## Register files -/

section Registers
variable {α : Type} {file : List (Option α)} {i j : RegIdx} {v w : α}

theorem readReg_eq_ok : readReg file i = .ok v ↔ file[i.toNat]? = some (some v) := by
  unfold readReg
  split <;> simp_all

theorem readReg_eq_error {e : ErrorKind} :
    readReg file i = .error e ↔
      e = .uninitializedRegister ∧ ∀ v, file[i.toNat]? ≠ some (some v) := by
  unfold readReg
  split
  · simp_all
  · rename_i h
    simp only [Except.error.injEq]
    exact ⟨fun he => ⟨he.symm, fun v hv => h v hv⟩, fun he => he.1.symm⟩

theorem readReg_ok_mem (h : readReg file i = .ok v) : some v ∈ file :=
  List.mem_of_getElem? (readReg_eq_ok.1 h)

@[simp] theorem writeReg_length : (writeReg file i v).length = file.length := by
  simp [writeReg]

theorem writeReg_getElem?_same (h : i.toNat < file.length) :
    (writeReg file i v)[i.toNat]? = some (some v) := by
  simp [writeReg, h]

theorem writeReg_getElem?_ne {n : Nat} (h : i.toNat ≠ n) :
    (writeReg file i v)[n]? = file[n]? := by
  simp [writeReg, List.getElem?_set_ne h]

theorem mem_writeReg (h : some w ∈ writeReg file i v) : w = v ∨ some w ∈ file := by
  rcases List.mem_or_eq_of_mem_set h with h | h
  · exact .inr h
  · exact .inl (by simpa using h)

end Registers

theorem State.readF_eq_ok {s : State} {i : RegIdx} {v : Felt} :
    s.readF i = .ok v ↔ s.fregs[i.toNat]? = some (some v) := readReg_eq_ok

theorem State.readC_eq_ok {s : State} {i : RegIdx} {v : CurveRec} :
    s.readC i = .ok v ↔ s.cregs[i.toNat]? = some (some v) := readReg_eq_ok

theorem State.readP_eq_ok {s : State} {i : RegIdx} {v : PointVal} :
    s.readP i = .ok v ↔ s.pregs[i.toNat]? = some (some v) := readReg_eq_ok

theorem State.readS_eq_ok {s : State} {i : RegIdx} {v : Nat} :
    s.readS i = .ok v ↔ s.sregs[i.toNat]? = some (some v) := readReg_eq_ok

/-- A read of a register file gives its value or UninitializedRegister. -/
theorem readReg_cases {α : Type} (file : List (Option α)) (i : RegIdx) :
    (∃ v, readReg file i = .ok v) ∨ readReg file i = .error .uninitializedRegister := by
  unfold readReg
  split
  · exact .inl ⟨_, rfl⟩
  · exact .inr rfl

/-! ## Commit -/

@[simp] theorem commit_error (s : State) (e : ErrorKind) :
    commit s (.error e) = .next (errorEntry e s) := rfl

@[simp] theorem commit_ok (s s' : State) : commit s (.ok s') = .next (commitDone s') := rfl

/-- What a commit can answer. -/
theorem commit_cases {s t : State} {r : Except ErrorKind State} (h : commit s r = .next t) :
    (∃ e, r = .error e ∧ t = errorEntry e s) ∨ (∃ s', r = .ok s' ∧ t = commitDone s') := by
  cases r with
  | error e => exact .inl ⟨e, rfl, by simpa using h.symm⟩
  | ok s' => exact .inr ⟨s', rfl, by simpa using h.symm⟩

/-- Distinct error kinds have distinct codes (R250). -/
theorem ErrorKind.code_injective {e e' : ErrorKind} (h : e.code = e'.code) : e = e' := by
  revert h; cases e <;> cases e' <;> decide

/-- No error kind has the code 0x00, which says that a command completed (R250). -/
theorem ErrorKind.code_ne_zero (e : ErrorKind) : e.code ≠ 0 := by cases e <;> decide

/-- Error entries of distinct kinds are distinct states. -/
theorem errorEntry_injective {e e' : ErrorKind} {s : State}
    (h : errorEntry e s = errorEntry e' s) : e = e' :=
  ErrorKind.code_injective (by simpa using congrArg State.ecode h)

/-! ## Operand forms -/

section Operands
variable {s : State} {rs1 rs2 rs3 : RegIdx}

/-- One step of a computation that may raise an error, taken apart. -/
theorem bind_eq_ok {α β : Type} {x : Except ErrorKind α} {f : α → Except ErrorKind β} {b : β} :
    (x >>= f) = .ok b ↔ ∃ a, x = .ok a ∧ f a = .ok b := by
  cases x <;> simp [bind, Except.bind]

/-- The error of a computation comes from its first step or from what follows it. -/
theorem bind_eq_error {α β : Type} {x : Except ErrorKind α} {f : α → Except ErrorKind β}
    {e : ErrorKind} :
    (x >>= f) = .error e ↔ x = .error e ∨ ∃ a, x = .ok a ∧ f a = .error e := by
  cases x <;> simp [bind, Except.bind]

@[simp] theorem ok_bind {α β : Type} (a : α) (f : α → Except ErrorKind β) :
    (Except.ok a >>= f) = f a := rfl

@[simp] theorem error_bind {α β : Type} (e : ErrorKind) (f : α → Except ErrorKind β) :
    ((Except.error e : Except ErrorKind α) >>= f) = .error e := rfl

theorem twoFelts_eq_ok {a b : Felt} :
    twoFelts s rs1 rs2 = .ok (a, b) ↔
      s.readF rs1 = .ok a ∧ s.readF rs2 = .ok b ∧ a.prime = b.prime := by
  simp only [twoFelts, bind_eq_ok]
  constructor
  · rintro ⟨a', ha, b', hb, h⟩
    split at h
    · simp only [Except.ok.injEq, Prod.mk.injEq] at h
      obtain ⟨rfl, rfl⟩ := h
      exact ⟨ha, hb, by assumption⟩
    · simp at h
  · rintro ⟨ha, hb, h⟩
    exact ⟨a, ha, b, hb, by simp [h]⟩

theorem twoPoints_eq_ok {p q : PointVal} :
    twoPoints s rs1 rs2 = .ok (p, q) ↔
      s.readP rs1 = .ok p ∧ s.readP rs2 = .ok q ∧ p.curve = q.curve := by
  simp only [twoPoints, bind_eq_ok]
  constructor
  · rintro ⟨a', ha, b', hb, h⟩
    split at h
    · simp only [Except.ok.injEq, Prod.mk.injEq] at h
      obtain ⟨rfl, rfl⟩ := h
      exact ⟨ha, hb, by assumption⟩
    · simp at h
  · rintro ⟨ha, hb, h⟩
    exact ⟨p, ha, q, hb, by simp [h]⟩

theorem curveAndCoordinates_eq_ok {e : CurveRec} {x y : Nat} :
    curveAndCoordinates s rs1 rs2 rs3 = .ok (e, x, y) ↔
      s.readC rs1 = .ok e ∧ s.readF rs2 = .ok ⟨x, e.p⟩ ∧ s.readF rs3 = .ok ⟨y, e.p⟩ := by
  simp only [curveAndCoordinates, bind_eq_ok]
  constructor
  · rintro ⟨e', he, X, hX, Y, hY, h⟩
    split at h
    · rename_i hp
      simp only [Except.ok.injEq, Prod.mk.injEq] at h
      obtain ⟨rfl, rfl, rfl⟩ := h
      obtain ⟨h1, h2⟩ := hp
      exact ⟨he, by rw [← h1]; exact hX, by rw [← h2]; exact hY⟩
    · simp at h
  · rintro ⟨he, hX, hY⟩
    exact ⟨e, he, ⟨x, e.p⟩, hX, ⟨y, e.p⟩, hY, by simp⟩

theorem feltAndUnsigned_eq_ok {x : Felt} {k : Nat} :
    feltAndUnsigned s rs1 rs2 = .ok (x, k) ↔ s.readF rs1 = .ok x ∧ s.readS rs2 = .ok k := by
  simp only [feltAndUnsigned, bind_eq_ok]
  constructor
  · rintro ⟨x', hx, k', hk, h⟩
    simp only [Except.ok.injEq, Prod.mk.injEq] at h
    obtain ⟨rfl, rfl⟩ := h
    exact ⟨hx, hk⟩
  · rintro ⟨hx, hk⟩
    exact ⟨x, hx, k, hk, rfl⟩

theorem feltAndSigned_eq_ok {x : Felt} {e : Int} :
    feltAndSigned s rs1 rs2 = .ok (x, e) ↔
      s.readF rs1 = .ok x ∧ ∃ k, s.readS rs2 = .ok k ∧ e = signedOf s.cfg.w k := by
  simp only [feltAndSigned, bind_eq_ok]
  constructor
  · rintro ⟨x', hx, k', hk, h⟩
    simp only [Except.ok.injEq, Prod.mk.injEq] at h
    obtain ⟨rfl, rfl⟩ := h
    exact ⟨hx, k', hk, rfl⟩
  · rintro ⟨hx, k, hk, rfl⟩
    exact ⟨x, hx, k, hk, rfl⟩

theorem pointAndScalar_eq_ok {p : PointVal} {k : Nat} :
    pointAndScalar s rs1 rs2 = .ok (p, k) ↔ s.readP rs1 = .ok p ∧ s.readS rs2 = .ok k := by
  simp only [pointAndScalar, bind_eq_ok]
  constructor
  · rintro ⟨x', hx, k', hk, h⟩
    simp only [Except.ok.injEq, Prod.mk.injEq] at h
    obtain ⟨rfl, rfl⟩ := h
    exact ⟨hx, hk⟩
  · rintro ⟨hx, hk⟩
    exact ⟨p, hx, k, hk, rfl⟩

theorem coordinates_eq_ok {p : PointVal} {x y : Felt} :
    coordinates p = .ok (x, y) ↔
      ∃ e a b, p = .affine e a b ∧ x = ⟨a, e.p⟩ ∧ y = ⟨b, e.p⟩ := by
  cases p with
  | ident e => simp [coordinates]
  | affine e a b =>
    simp only [coordinates, Except.ok.injEq, Prod.mk.injEq]
    constructor
    · rintro ⟨rfl, rfl⟩
      exact ⟨e, a, b, rfl, rfl, rfl⟩
    · rintro ⟨e', a', b', h, rfl, rfl⟩
      cases h
      exact ⟨rfl, rfl⟩

theorem newFelt_eq_ok {inner prime : Nat} {v : Felt} :
    newFelt inner prime = .ok v ↔ 2 ≤ prime ∧ inner < prime ∧ v = ⟨inner, prime⟩ := by
  unfold newFelt
  split
  · simp; omega
  · split
    · simp; omega
    · simp only [Except.ok.injEq]
      constructor
      · rintro rfl
        exact ⟨by omega, by omega, rfl⟩
      · rintro ⟨-, -, rfl⟩
        rfl

end Operands

end Sys2Proof.Machine
end

