-- ==== Sys2Proof/Laws/Window.lean ====
section
/-! SUPPORT. The words of the staging buffers, the register map, and what a Host access can do. -/

namespace Sys2Proof.Machine

/-! ## Words of a W-bit value (R66) -/

theorem pow_word_succ (i : Nat) : 2 ^ (32 * (i + 1)) = 2 ^ (32 * i) * 2 ^ 32 := by
  rw [← pow_add, Nat.mul_succ]

/-- R36: the word just written is the word read. -/
theorem wordOf_setWord_same (v i : Nat) (x : Word) : wordOf (setWord v i x) i = x := by
  have hp : 0 < 2 ^ (32 * i) := by positivity
  unfold wordOf setWord
  rw [Nat.add_mul_div_left _ _ hp, Nat.div_eq_of_lt (Nat.mod_lt _ hp), zero_add]
  apply BitVec.eq_of_toNat_eq
  rw [BitVec.toNat_ofNat, Nat.add_mul_mod_self_left, Nat.mod_eq_of_lt x.isLt]

/-- R36: a word other than the one written reads as before. -/
theorem wordOf_setWord_ne (v : Nat) {i j : Nat} (x : Word) (h : j ≠ i) :
    wordOf (setWord v i x) j = wordOf v j := by
  have hpi : 0 < 2 ^ (32 * i) := by positivity
  have hpj : 0 < 2 ^ (32 * j) := by positivity
  apply BitVec.eq_of_toNat_eq
  unfold wordOf setWord
  simp only [BitVec.toNat_ofNat]
  rcases Nat.lt_or_gt_of_ne h with hlt | hlt
  · obtain ⟨d, rfl⟩ : ∃ d, i = j + 1 + d := ⟨i - (j + 1), by omega⟩
    have e : 2 ^ (32 * (j + 1 + d)) = 2 ^ (32 * j) * (2 ^ 32 * 2 ^ (32 * d)) := by
      rw [← pow_add, ← pow_add]; congr 1; ring
    rw [e]
    generalize x.toNat + _ = y
    rw [Nat.mul_assoc (2 ^ (32 * j)), Nat.add_mul_div_left _ _ hpj,
      Nat.mod_mul_right_div_self, Nat.mul_assoc (2 ^ 32), Nat.add_mul_mod_self_left,
      Nat.mod_mul_right_mod]
  · obtain ⟨d, rfl⟩ : ∃ d, j = i + 1 + d := ⟨j - (i + 1), by omega⟩
    have e : 2 ^ (32 * (i + 1 + d)) = 2 ^ (32 * i) * 2 ^ 32 * 2 ^ (32 * d) := by
      rw [← pow_add, ← pow_add]; congr 1; ring
    have hx : x.toNat < 2 ^ 32 := x.isLt
    rw [e, pow_word_succ, ← Nat.div_div_eq_div_mul, ← Nat.div_div_eq_div_mul,
      ← Nat.div_div_eq_div_mul, ← Nat.div_div_eq_div_mul, Nat.add_mul_div_left _ _ hpi,
      Nat.div_eq_of_lt (Nat.mod_lt _ hpi), zero_add, Nat.add_mul_div_left _ _ (by positivity),
      Nat.div_eq_of_lt hx, zero_add]
    simp only [Nat.div_div_eq_div_mul, Nat.mul_assoc]

/-- A buffer stays W bits wide when one of its words is written (R36). -/
theorem setWord_lt {v w i : Nat} (x : Word) (hv : v < 2 ^ w) (hi : 32 * (i + 1) ≤ w) :
    setWord v i x < 2 ^ w := by
  have hp : 0 < 2 ^ (32 * i) := by positivity
  have h1 : v % 2 ^ (32 * i) < 2 ^ (32 * i) := Nat.mod_lt _ hp
  have hx : x.toNat < 2 ^ 32 := x.isLt
  obtain ⟨d, rfl⟩ : ∃ d, w = 32 * (i + 1) + d := ⟨w - 32 * (i + 1), by omega⟩
  have h2 : v / 2 ^ (32 * (i + 1)) < 2 ^ d := by
    apply Nat.div_lt_of_lt_mul; rw [← pow_add]; exact hv
  have h3 : x.toNat + 2 ^ 32 * (v / 2 ^ (32 * (i + 1))) < 2 ^ 32 * 2 ^ d := by
    calc _ < 2 ^ 32 + 2 ^ 32 * (v / 2 ^ (32 * (i + 1))) := by omega
      _ = 2 ^ 32 * (v / 2 ^ (32 * (i + 1)) + 1) := by ring
      _ ≤ 2 ^ 32 * 2 ^ d := Nat.mul_le_mul_left _ h2
  unfold setWord
  calc _ < 2 ^ (32 * i) + 2 ^ (32 * i) * (x.toNat + 2 ^ 32 * (v / 2 ^ (32 * (i + 1)))) := by omega
    _ = 2 ^ (32 * i) * (x.toNat + 2 ^ 32 * (v / 2 ^ (32 * (i + 1))) + 1) := by ring
    _ ≤ 2 ^ (32 * i) * (2 ^ 32 * 2 ^ d) := Nat.mul_le_mul_left _ h3
    _ = 2 ^ (32 * (i + 1) + d) := by rw [pow_add, pow_word_succ]; ring

/-! ## The register map (R61) -/

theorem windowReg_dataA {cfg : Config} {i : Nat} (hi : i < cfg.words) :
    windowReg cfg (0x100 + 4 * i) = .dataA i := by
  unfold windowReg
  rw [if_neg (by omega), if_neg (by omega), if_neg (by omega), if_neg (by omega),
    if_pos (by omega)]
  congr 1
  omega

theorem windowReg_dataB {cfg : Config} {i : Nat} (hi : i < cfg.words) (hw : cfg.words ≤ 64) :
    windowReg cfg (0x200 + 4 * i) = .dataB i := by
  unfold windowReg
  rw [if_neg (by omega), if_neg (by omega), if_neg (by omega), if_neg (by omega),
    if_neg (by omega), if_pos (by omega)]
  congr 1
  omega

/-- A DATA_A word of the map lies inside the buffer. -/
theorem windowReg_eq_dataA {cfg : Config} {off i : Nat} (h : windowReg cfg off = .dataA i) :
    i < cfg.words := by
  unfold windowReg at h
  split_ifs at h
  cases h
  omega

/-- A DATA_B word of the map lies inside the buffer. -/
theorem windowReg_eq_dataB {cfg : Config} {off i : Nat} (h : windowReg cfg off = .dataB i) :
    i < cfg.words := by
  unfold windowReg at h
  split_ifs at h
  cases h
  omega

/-- A word of a buffer ends inside its W bits. -/
theorem word_end_le {cfg : Config} {i : Nat} (h : i < cfg.words) : 32 * (i + 1) ≤ cfg.w := by
  unfold Config.words at h; omega

/-! ## Host accesses -/

/-- Everything a Host read can do: stop outside the window, else only answer (R67). -/
theorem hostRead_cases (addr bytes : Nat) (s : State) :
    (inWindow s.cfg addr = false ∧ hostRead addr bytes s = .fault (.outsideWindow addr)) ∨
    (inWindow s.cfg addr = true ∧ ∃ r, hostRead addr bytes s = .next (respond s r)) := by
  unfold hostRead
  cases h : inWindow s.cfg addr
  · exact .inl ⟨rfl, rfl⟩
  · refine .inr ⟨rfl, ?_⟩
    simp only [if_true]
    split_ifs <;> exact ⟨_, rfl⟩

/-- R62, R67: an aligned 32-bit read inside the window answers the word at its offset. -/
theorem hostRead_accepted {s : State} {off : Nat} (hr : s.resetLine = false) (h : off < 0x400)
    (ha : off % 4 = 0) :
    hostRead (s.cfg.base + off) 4 s = .next (respond s (.readData (readWindow s off))) := by
  have hw : inWindow s.cfg (s.cfg.base + off) = true := decide_eq_true (by omega)
  have hx : acceptedAccess s.cfg (s.cfg.base + off) 4 = true := decide_eq_true (by omega)
  unfold hostRead
  simp [hw, hx, hr]

/-- Everything a Host write can do: stop outside the window, else answer and, where the access is
accepted and reset is not asserted, write the register at its offset. -/
theorem hostWrite_cases (addr bytes : Nat) (v : Word) (s : State) :
    (inWindow s.cfg addr = false ∧ hostWrite addr bytes v s = .fault (.outsideWindow addr)) ∨
    (inWindow s.cfg addr = true ∧ (s.resetLine = true ∨ acceptedAccess s.cfg addr bytes = false) ∧
      ∃ r, hostWrite addr bytes v s = .next (respond s r)) ∨
    (inWindow s.cfg addr = true ∧ s.resetLine = false ∧ acceptedAccess s.cfg addr bytes = true ∧
      hostWrite addr bytes v s =
        .next (respond (writeWindow s (addr - s.cfg.base) v) .writeDone)) := by
  unfold hostWrite
  cases h : inWindow s.cfg addr
  · exact .inl ⟨rfl, rfl⟩
  · cases hr : s.resetLine
    · cases ha : acceptedAccess s.cfg addr bytes
      · exact .inr (.inl ⟨rfl, .inr rfl, _, rfl⟩)
      · exact .inr (.inr ⟨rfl, rfl, rfl, rfl⟩)
    · exact .inr (.inl ⟨rfl, .inl rfl, _, rfl⟩)

/-- Everything an accepted write can do (R67, R69). -/
theorem writeWindow_cases (s : State) (off : Nat) (v : Word) :
    writeWindow s off v = s ∨ writeWindow s off v = resetDevice s ∨
    writeWindow s off v = writeStatus s v ∨ (s.busy = true ∧ writeWindow s off v = dropWrite s) ∨
    (s.busy = false ∧ writeWindow s off v = issue v s) ∨
    (s.busy = false ∧ ∃ i, i < s.cfg.words ∧
      writeWindow s off v = s.setDataA (setWord s.dataA i v)) ∨
    (s.busy = false ∧ ∃ i, i < s.cfg.words ∧
      writeWindow s off v = s.setDataB (setWord s.dataB i v)) := by
  unfold writeWindow
  split
  · exact .inl rfl
  · unfold writeCtrl
    split
    · exact .inr (.inl rfl)
    · exact .inl rfl
  · exact .inr (.inr (.inl rfl))
  · unfold writeCmd
    cases h : s.busy
    · exact .inr (.inr (.inr (.inr (.inl ⟨rfl, rfl⟩))))
    · exact .inr (.inr (.inr (.inl ⟨rfl, rfl⟩)))
  · rename_i i hi
    unfold writeDataA
    cases h : s.busy
    · exact .inr (.inr (.inr (.inr (.inr (.inl ⟨rfl, i, windowReg_eq_dataA hi, rfl⟩)))))
    · exact .inr (.inr (.inr (.inl ⟨rfl, rfl⟩)))
  · rename_i i hi
    unfold writeDataB
    cases h : s.busy
    · exact .inr (.inr (.inr (.inr (.inr (.inr ⟨rfl, i, windowReg_eq_dataB hi, rfl⟩)))))
    · exact .inr (.inr (.inr (.inl ⟨rfl, rfl⟩)))
  · exact .inl rfl

end Sys2Proof.Machine
end

