-- ==== Sys2Proof/Laws/Exec.lean ====
section
/-! SUPPORT. Everything a command can do to the state, and everything a step can do. -/

namespace Sys2Proof.Machine

/-- The one write of a command that ended without error: its destination register, the staging buffers
(FRD, SST), the flag (FEQ, PEQ), or nothing (NOP). -/
inductive CommandWrite (i : Instr) (s : State) : State → Prop
  | none (h : i = .nop) : CommandWrite i s s
  | felt (rd : RegIdx) (v : Felt) (h : i.dest = some (.F, rd)) : CommandWrite i s (s.writeF rd v)
  | curve (rd : RegIdx) (e : CurveRec) (h : i.dest = some (.C, rd)) : CommandWrite i s (s.writeC rd e)
  | point (rd : RegIdx) (v : PointVal) (h : i.dest = some (.P, rd)) : CommandWrite i s (s.writeP rd v)
  | scalar (rd : RegIdx) (k : Nat) (h : i.dest = some (.S, rd)) : CommandWrite i s (s.writeS rd k)
  | buffers (rs1 : RegIdx) (a b : Nat) (h : i = .frd rs1) :
      CommandWrite i s ((s.setDataA a).setDataB b)
  | bufferA (rs1 : RegIdx) (a : Nat) (h : i = .sst rs1) : CommandWrite i s (s.setDataA a)
  | flag (b : Bool) (h : ∃ rs1 rs2, i = .feq rs1 rs2 ∨ i = .peq rs1 rs2) :
      CommandWrite i s (s.setT b)

/-- Every command's meaning is a commit of an error or of its one write. -/
theorem exec_eq_commit (i : Instr) (s : State) :
    ∃ r, exec i s = commit s r ∧ ∀ s', r = .ok s' → CommandWrite i s s' := by
  cases i with
  | nop => exact ⟨.ok s, rfl, fun s' h => by cases h; exact .none rfl⟩
  | fnew rd =>
    refine ⟨_, rfl, fun s' h => ?_⟩
    obtain ⟨v, -, h⟩ := bind_eq_ok.1 h
    cases h; exact .felt rd v rfl
  | frd rs1 =>
    refine ⟨_, rfl, fun s' h => ?_⟩
    obtain ⟨v, -, h⟩ := bind_eq_ok.1 h
    cases h; exact .buffers rs1 _ _ rfl
  | fadd rd rs1 rs2 =>
    refine ⟨_, rfl, fun s' h => ?_⟩
    obtain ⟨v, -, h⟩ := bind_eq_ok.1 h
    cases h; exact .felt rd _ rfl
  | fsub rd rs1 rs2 =>
    refine ⟨_, rfl, fun s' h => ?_⟩
    obtain ⟨v, -, h⟩ := bind_eq_ok.1 h
    cases h; exact .felt rd _ rfl
  | fmul rd rs1 rs2 =>
    refine ⟨_, rfl, fun s' h => ?_⟩
    obtain ⟨v, -, h⟩ := bind_eq_ok.1 h
    cases h; exact .felt rd _ rfl
  | fdiv rd rs1 rs2 =>
    refine ⟨_, rfl, fun s' h => ?_⟩
    obtain ⟨v, -, h⟩ := bind_eq_ok.1 h
    obtain ⟨q, -, h⟩ := bind_eq_ok.1 h
    cases h; exact .felt rd _ rfl
  | finv rd rs1 =>
    refine ⟨_, rfl, fun s' h => ?_⟩
    obtain ⟨v, -, h⟩ := bind_eq_ok.1 h
    obtain ⟨q, -, h⟩ := bind_eq_ok.1 h
    cases h; exact .felt rd _ rfl
  | fpowu rd rs1 rs2 =>
    refine ⟨_, rfl, fun s' h => ?_⟩
    obtain ⟨v, -, h⟩ := bind_eq_ok.1 h
    cases h; exact .felt rd _ rfl
  | fpows rd rs1 rs2 =>
    refine ⟨_, rfl, fun s' h => ?_⟩
    obtain ⟨v, -, h⟩ := bind_eq_ok.1 h
    obtain ⟨q, -, h⟩ := bind_eq_ok.1 h
    cases h; exact .felt rd _ rfl
  | feq rs1 rs2 =>
    refine ⟨_, rfl, fun s' h => ?_⟩
    obtain ⟨v, -, h⟩ := bind_eq_ok.1 h
    cases h; exact .flag _ ⟨rs1, rs2, .inl rfl⟩
  | sld rd => exact ⟨.ok (s.writeS rd s.dataA), rfl, fun s' h => by cases h; exact .scalar rd _ rfl⟩
  | sst rs1 =>
    refine ⟨_, rfl, fun s' h => ?_⟩
    obtain ⟨v, -, h⟩ := bind_eq_ok.1 h
    cases h; exact .bufferA rs1 _ rfl
  | cnew rd rs1 rs2 =>
    refine ⟨_, rfl, fun s' h => ?_⟩
    obtain ⟨v, -, h⟩ := bind_eq_ok.1 h
    cases h; exact .curve rd _ rfl
  | pnew rd rs1 rs2 rs3 =>
    refine ⟨_, rfl, fun s' h => ?_⟩
    obtain ⟨v, -, h⟩ := bind_eq_ok.1 h
    split at h
    · split at h
      · cases h; exact .point rd _ rfl
      · cases h
  | pid rd rs1 =>
    refine ⟨_, rfl, fun s' h => ?_⟩
    obtain ⟨v, -, h⟩ := bind_eq_ok.1 h
    cases h; exact .point rd _ rfl
  | padd rd rs1 rs2 =>
    refine ⟨_, rfl, fun s' h => ?_⟩
    obtain ⟨v, -, h⟩ := bind_eq_ok.1 h
    cases h; exact .point rd _ rfl
  | peq rs1 rs2 =>
    refine ⟨_, rfl, fun s' h => ?_⟩
    obtain ⟨v, -, h⟩ := bind_eq_ok.1 h
    cases h; exact .flag _ ⟨rs1, rs2, .inr rfl⟩
  | pgetx rd rs1 =>
    refine ⟨_, rfl, fun s' h => ?_⟩
    obtain ⟨v, -, h⟩ := bind_eq_ok.1 h
    obtain ⟨q, -, h⟩ := bind_eq_ok.1 h
    cases h; exact .felt rd _ rfl
  | pgety rd rs1 =>
    refine ⟨_, rfl, fun s' h => ?_⟩
    obtain ⟨v, -, h⟩ := bind_eq_ok.1 h
    obtain ⟨q, -, h⟩ := bind_eq_ok.1 h
    cases h; exact .felt rd _ rfl
  | pmuln rd rs1 rs2 =>
    refine ⟨_, rfl, fun s' h => ?_⟩
    obtain ⟨v, -, h⟩ := bind_eq_ok.1 h
    cases h; exact .point rd _ rfl
  | pmulb rd rs1 rs2 =>
    refine ⟨_, rfl, fun s' h => ?_⟩
    obtain ⟨v, -, h⟩ := bind_eq_ok.1 h
    cases h; exact .point rd _ rfl

/-- Everything a command can answer: an error entry, or the commit of its one write. -/
theorem exec_cases {i : Instr} {s t : State} (h : exec i s = .next t) :
    (∃ e, t = errorEntry e s) ∨ (∃ s', CommandWrite i s s' ∧ t = commitDone s') := by
  obtain ⟨r, hr, hw⟩ := exec_eq_commit i s
  rcases commit_cases (hr ▸ h) with ⟨e, -, rfl⟩ | ⟨s', hs', rfl⟩
  · exact .inl ⟨e, rfl⟩
  · exact .inr ⟨s', hw s' hs', rfl⟩

/-! ## Steps -/

@[simp] theorem nextEvent_nil {s : State} (h : s.agenda = []) : nextEvent s = .engine := by
  simp [nextEvent, h]

@[simp] theorem nextEvent_cons {s : State} {e : Event} {rest : List Event}
    (h : s.agenda = e :: rest) : nextEvent s = e := by
  simp [nextEvent, h]

/-- Everything the Engine's turn can do: nothing when it is not enabled, else the commit of the command
in flight or of an illegal word. -/
theorem engineTurn_cases (s : State) :
    (engineEnabled s = false ∧ engineTurn s = .next s) ∨
    (engineEnabled s = true ∧ fetch s = none ∧
      engineTurn s = .next (errorEntry .illegalCommand s)) ∨
    (engineEnabled s = true ∧ ∃ i, fetch s = some i ∧ engineTurn s = exec i s) := by
  unfold engineTurn
  cases h : engineEnabled s
  · exact .inl ⟨rfl, rfl⟩
  · cases hf : fetch s with
    | none => exact .inr (.inl ⟨rfl, rfl, rfl⟩)
    | some i => exact .inr (.inr ⟨rfl, i, rfl, rfl⟩)

theorem engineEnabled_iff {s : State} :
    engineEnabled s = true ↔ s.busy = true ∧ s.resetLine = false := by
  simp [engineEnabled]

end Sys2Proof.Machine
end

