-- ==== Sys2Proof/Laws/PerInstr.lean ====
section
/-! SUPPORT. Laws proved constructor by constructor: the encoding of every command selects the row of its
mnemonic (R92, R110). -/

namespace Sys2Proof.Laws.EncodeSelectsRow

/-- Whatever its operands, the word of the command selects a row of the opcode table, and that row has
the command's mnemonic and, in the fields rd, rs1, rs2, rs3, the classes of its operands in order. -/
def Statement (i : Instr) : Prop :=
  ∃ r ∈ opcodeTable, r.selects (encode i) = true ∧ r.mnemonic = i.mnemonic ∧
    [r.rd, r.rs1, r.rs2, r.rs3].filterMap id = i.operands.map Prod.fst

theorem nop : Statement (.nop) :=
  ⟨opcodeTable[0], List.getElem_mem _,
    row_selects_pack (List.getElem_mem _) (by decide) (fun _ => rfl) (fun _ => rfl) (fun _ => rfl) (fun _ => rfl),
    rfl, rfl⟩

theorem fnew (rd : RegIdx) : Statement (.fnew rd) :=
  ⟨opcodeTable[1], List.getElem_mem _,
    row_selects_pack (List.getElem_mem _) (by decide) (fun h => absurd h (by decide)) (fun _ => rfl) (fun _ => rfl) (fun _ => rfl),
    rfl, rfl⟩

theorem frd (rs1 : RegIdx) : Statement (.frd rs1) :=
  ⟨opcodeTable[2], List.getElem_mem _,
    row_selects_pack (List.getElem_mem _) (by decide) (fun _ => rfl) (fun h => absurd h (by decide)) (fun _ => rfl) (fun _ => rfl),
    rfl, rfl⟩

theorem fadd (rd rs1 rs2 : RegIdx) : Statement (.fadd rd rs1 rs2) :=
  ⟨opcodeTable[3], List.getElem_mem _,
    row_selects_pack (List.getElem_mem _) (by decide) (fun h => absurd h (by decide)) (fun h => absurd h (by decide)) (fun h => absurd h (by decide)) (fun _ => rfl),
    rfl, rfl⟩

theorem fsub (rd rs1 rs2 : RegIdx) : Statement (.fsub rd rs1 rs2) :=
  ⟨opcodeTable[4], List.getElem_mem _,
    row_selects_pack (List.getElem_mem _) (by decide) (fun h => absurd h (by decide)) (fun h => absurd h (by decide)) (fun h => absurd h (by decide)) (fun _ => rfl),
    rfl, rfl⟩

theorem fmul (rd rs1 rs2 : RegIdx) : Statement (.fmul rd rs1 rs2) :=
  ⟨opcodeTable[5], List.getElem_mem _,
    row_selects_pack (List.getElem_mem _) (by decide) (fun h => absurd h (by decide)) (fun h => absurd h (by decide)) (fun h => absurd h (by decide)) (fun _ => rfl),
    rfl, rfl⟩

theorem fdiv (rd rs1 rs2 : RegIdx) : Statement (.fdiv rd rs1 rs2) :=
  ⟨opcodeTable[6], List.getElem_mem _,
    row_selects_pack (List.getElem_mem _) (by decide) (fun h => absurd h (by decide)) (fun h => absurd h (by decide)) (fun h => absurd h (by decide)) (fun _ => rfl),
    rfl, rfl⟩

theorem finv (rd rs1 : RegIdx) : Statement (.finv rd rs1) :=
  ⟨opcodeTable[7], List.getElem_mem _,
    row_selects_pack (List.getElem_mem _) (by decide) (fun h => absurd h (by decide)) (fun h => absurd h (by decide)) (fun _ => rfl) (fun _ => rfl),
    rfl, rfl⟩

theorem fpowu (rd rs1 rs2 : RegIdx) : Statement (.fpowu rd rs1 rs2) :=
  ⟨opcodeTable[8], List.getElem_mem _,
    row_selects_pack (List.getElem_mem _) (by decide) (fun h => absurd h (by decide)) (fun h => absurd h (by decide)) (fun h => absurd h (by decide)) (fun _ => rfl),
    rfl, rfl⟩

theorem fpows (rd rs1 rs2 : RegIdx) : Statement (.fpows rd rs1 rs2) :=
  ⟨opcodeTable[9], List.getElem_mem _,
    row_selects_pack (List.getElem_mem _) (by decide) (fun h => absurd h (by decide)) (fun h => absurd h (by decide)) (fun h => absurd h (by decide)) (fun _ => rfl),
    rfl, rfl⟩

theorem feq (rs1 rs2 : RegIdx) : Statement (.feq rs1 rs2) :=
  ⟨opcodeTable[10], List.getElem_mem _,
    row_selects_pack (List.getElem_mem _) (by decide) (fun _ => rfl) (fun h => absurd h (by decide)) (fun h => absurd h (by decide)) (fun _ => rfl),
    rfl, rfl⟩

theorem sld (rd : RegIdx) : Statement (.sld rd) :=
  ⟨opcodeTable[11], List.getElem_mem _,
    row_selects_pack (List.getElem_mem _) (by decide) (fun h => absurd h (by decide)) (fun _ => rfl) (fun _ => rfl) (fun _ => rfl),
    rfl, rfl⟩

theorem sst (rs1 : RegIdx) : Statement (.sst rs1) :=
  ⟨opcodeTable[12], List.getElem_mem _,
    row_selects_pack (List.getElem_mem _) (by decide) (fun _ => rfl) (fun h => absurd h (by decide)) (fun _ => rfl) (fun _ => rfl),
    rfl, rfl⟩

theorem cnew (rd rs1 rs2 : RegIdx) : Statement (.cnew rd rs1 rs2) :=
  ⟨opcodeTable[13], List.getElem_mem _,
    row_selects_pack (List.getElem_mem _) (by decide) (fun h => absurd h (by decide)) (fun h => absurd h (by decide)) (fun h => absurd h (by decide)) (fun _ => rfl),
    rfl, rfl⟩

theorem pnew (rd rs1 rs2 rs3 : RegIdx) : Statement (.pnew rd rs1 rs2 rs3) :=
  ⟨opcodeTable[14], List.getElem_mem _,
    row_selects_pack (List.getElem_mem _) (by decide) (fun h => absurd h (by decide)) (fun h => absurd h (by decide)) (fun h => absurd h (by decide)) (fun h => absurd h (by decide)),
    rfl, rfl⟩

theorem pid (rd rs1 : RegIdx) : Statement (.pid rd rs1) :=
  ⟨opcodeTable[15], List.getElem_mem _,
    row_selects_pack (List.getElem_mem _) (by decide) (fun h => absurd h (by decide)) (fun h => absurd h (by decide)) (fun _ => rfl) (fun _ => rfl),
    rfl, rfl⟩

theorem padd (rd rs1 rs2 : RegIdx) : Statement (.padd rd rs1 rs2) :=
  ⟨opcodeTable[16], List.getElem_mem _,
    row_selects_pack (List.getElem_mem _) (by decide) (fun h => absurd h (by decide)) (fun h => absurd h (by decide)) (fun h => absurd h (by decide)) (fun _ => rfl),
    rfl, rfl⟩

theorem peq (rs1 rs2 : RegIdx) : Statement (.peq rs1 rs2) :=
  ⟨opcodeTable[17], List.getElem_mem _,
    row_selects_pack (List.getElem_mem _) (by decide) (fun _ => rfl) (fun h => absurd h (by decide)) (fun h => absurd h (by decide)) (fun _ => rfl),
    rfl, rfl⟩

theorem pgetx (rd rs1 : RegIdx) : Statement (.pgetx rd rs1) :=
  ⟨opcodeTable[18], List.getElem_mem _,
    row_selects_pack (List.getElem_mem _) (by decide) (fun h => absurd h (by decide)) (fun h => absurd h (by decide)) (fun _ => rfl) (fun _ => rfl),
    rfl, rfl⟩

theorem pgety (rd rs1 : RegIdx) : Statement (.pgety rd rs1) :=
  ⟨opcodeTable[19], List.getElem_mem _,
    row_selects_pack (List.getElem_mem _) (by decide) (fun h => absurd h (by decide)) (fun h => absurd h (by decide)) (fun _ => rfl) (fun _ => rfl),
    rfl, rfl⟩

theorem pmuln (rd rs1 rs2 : RegIdx) : Statement (.pmuln rd rs1 rs2) :=
  ⟨opcodeTable[20], List.getElem_mem _,
    row_selects_pack (List.getElem_mem _) (by decide) (fun h => absurd h (by decide)) (fun h => absurd h (by decide)) (fun h => absurd h (by decide)) (fun _ => rfl),
    rfl, rfl⟩

theorem pmulb (rd rs1 rs2 : RegIdx) : Statement (.pmulb rd rs1 rs2) :=
  ⟨opcodeTable[21], List.getElem_mem _,
    row_selects_pack (List.getElem_mem _) (by decide) (fun h => absurd h (by decide)) (fun h => absurd h (by decide)) (fun h => absurd h (by decide)) (fun _ => rfl),
    rfl, rfl⟩

end Sys2Proof.Laws.EncodeSelectsRow
end

