-- ==== Sys2Proof/Tests/Slice0.lean ====
section
/-! SUPPORT. Tests of the model: expected results are those of 95_test_vectors.md or worked by hand from
the rules; and one witness for the hypotheses of every statement. -/

namespace Sys2Proof.Tests

open Sys2Proof.Machine

/-! ## States -/

/-- The default parameters with a window at 0x1000, and the two other modes. -/
def cfgD : Config := { Config.default with base := 0x1000 }

/-- `DIV0_MODE = REFERENCE_FORMULA`, `BAD_ACCESS_MODE = IGNORE`. -/
def cfgR : Config := { cfgD with div0Mode := .referenceFormula, badAccessMode := .ignore }

/-- The smallest instance of V-L2-M2. -/
def cfgSmall : Config := { cfgD with w := 32, nf := 1, nc := 1, np := 1, ns := 1 }

def E223 : CurveRec := ⟨223, 0, 7⟩

def E5 : CurveRec := ⟨223, 0, 5⟩

/-- The prime of secp256k1 (95_test_vectors.md, notation). -/
def secpPrime : Nat := 0xFFFFFFFFFFFFFFFFFFFFFFFFFFFFFFFFFFFFFFFFFFFFFFFFFFFFFFFEFFFFFC2F

/-- Field registers for the tests. -/
def withFelts (s : State) : State :=
  (((((((s.writeF 1 ⟨200, 223⟩).writeF 2 ⟨100, 223⟩).writeF 3 ⟨0, 223⟩).writeF 4 ⟨5, 227⟩).writeF 5
    ⟨192, 223⟩).writeF 6 ⟨105, 223⟩).writeF 7 ⟨3, 223⟩).writeF 8 ⟨17, 223⟩

/-- Curve, point and scalar registers for the tests: `p0` to `p7`, `s0` to `s3`. -/
def withPoints (s : State) : State :=
  let c := (s.writeC 0 E223).writeC 1 E5
  let p := ((((c.writeP 0 (.affine E223 47 71)).writeP 1 (.affine E223 47 152)).writeP 2
    (.ident E223)).writeP 3 (.affine E223 170 142)).writeP 4 (.affine E223 60 139)
  let q := (p.writeP 5 (.affine E223 6 0)).writeP 6 (.ident E5)
  (((q.writeS 0 8).writeS 1 (2 ^ 256 - 1)).writeS 2 224).writeS 3 0

/-- The state of most tests: everything above, at the default parameters. -/
def st : State := withPoints (withFelts (State.resetOf cfgD))

/-- The same with `DIV0_MODE = REFERENCE_FORMULA` and `BAD_ACCESS_MODE = IGNORE`. -/
def stR : State := { st with cfg := cfgR }

/-- A command word in flight, at the default parameters. -/
def inFlight (w : Word) : State := issue w st

/-- The state with one event coming. -/
def coming (s : State) (e : Event) : State := { s with agenda := [e] }

/-- The next state, if there is one. -/
def next? (o : Host.Outcome State Fault Refusal) : Option State :=
  match o with
  | .next t => some t
  | .fault _ => none
  | .refused _ => none

/-- A field of the next state. -/
def after {α : Type} (o : Host.Outcome State Fault Refusal) (f : State → α) : Option α :=
  (next? o).map f

/-! ## Well-formedness refuses ill-formed terms (R94) -/

theorem test_wellFormed_F : Instr.wellFormed cfgSmall (.fadd 1 0 0) = false ∧
    Instr.wellFormed cfgSmall (.fadd 0 0 0) = true := by decide

theorem test_wellFormed_C : Instr.wellFormed cfgD (.cnew 4 1 2) = false := by decide

theorem test_wellFormed_P : Instr.wellFormed cfgD (.padd 8 0 0) = false := by decide

theorem test_wellFormed_S : Instr.wellFormed cfgD (.pmuln 0 1 4) = false := by decide

/-! ## Decoding: a word written out from the encoding for every constructor (R92, R110, V-L2-E1 to E9) -/

theorem test_decode_field_words :
    decode cfgD 0x00000000 = some .nop ∧ decode cfgD 0x10300000 = some (.fnew 3) ∧
    decode cfgD 0x11050000 = some (.frd 5) ∧ decode cfgD 0x12312000 = some (.fadd 3 1 2) ∧
    decode cfgD 0x13312000 = some (.fsub 3 1 2) ∧ decode cfgD 0x14634000 = some (.fmul 6 3 4) ∧
    decode cfgD 0x15512000 = some (.fdiv 5 1 2) ∧ decode cfgD 0x16310000 = some (.finv 3 1) ∧
    decode cfgD 0x17211000 = some (.fpowu 2 1 1) ∧ decode cfgD 0x18312000 = some (.fpows 3 1 2) ∧
    decode cfgD 0x19012000 = some (.feq 1 2) := by decide

theorem test_decode_scalar_curve_point_words :
    decode cfgD 0x20200000 = some (.sld 2) ∧ decode cfgD 0x21010000 = some (.sst 1) ∧
    decode cfgD 0x30312000 = some (.cnew 3 1 2) ∧ decode cfgD 0x40105600 = some (.pnew 1 0 5 6) ∧
    decode cfgD 0x41700000 = some (.pid 7 0) ∧ decode cfgD 0x42201000 = some (.padd 2 0 1) ∧
    decode cfgD 0x43012000 = some (.peq 1 2) ∧ decode cfgD 0x44720000 = some (.pgetx 7 2) ∧
    decode cfgD 0x45820000 = some (.pgety 8 2) ∧ decode cfgD 0x46013000 = some (.pmuln 0 1 3) ∧
    decode cfgD 0x47432000 = some (.pmulb 4 3 2) := by decide

/-- V-L2-E10 to E27: illegal words. -/
theorem test_decode_illegal_words :
    decode cfgD 0x00000001 = none ∧ decode cfgD 0x00100000 = none ∧
    decode cfgD 0x12312001 = none ∧ decode cfgD 0x12312100 = none ∧
    decode cfgD 0x11100000 = none ∧ decode cfgD 0x19112000 = none ∧
    decode cfgD 0x01000000 = none ∧ decode cfgD 0x31000000 = none ∧
    decode cfgD 0xFF000000 = none ∧ decode cfgD 0x42800000 = none ∧
    decode cfgD 0x40041200 = none ∧ decode cfgD 0x20400000 = none := by decide

theorem test_encode_words :
    encode (.fadd 3 1 2) = 0x12312000 ∧ encode (.pnew 0 0 1 2) = 0x40001200 ∧
    encode (.feq 1 2) = 0x19012000 ∧ encode (.pgety 6 0) = 0x45600000 := by decide

theorem test_decodeTableWord : decodeTableWord 32 0x12312000 = some (.fadd 3 1 2) := by decide

/-- R110, R111: the assembler. -/
theorem test_assemble :
    assemble cfgD "PNEW" [(.P, 0), (.C, 0), (.F, 1), (.F, 2)] = some (.pnew 0 0 1 2) ∧
    assemble cfgD "FEQ" [(.F, 1), (.F, 2)] = some (.feq 1 2) ∧
    assemble cfgD "PDBL" [(.P, 2), (.P, 0)] = some (Instr.pdbl 2 0) ∧
    assemble cfgD "FADD" [(.F, 1), (.F, 2)] = none := by decide

theorem test_text : Instr.text (.fadd 3 1 2) = "FADD f3, f1, f2" := by decide

/-! ## Field commands (V-L2-F) -/

theorem test_fadd : after (exec (.fadd 9 1 2) st) (·.fregs[9]?) = some (some (some ⟨77, 223⟩)) := by
  decide

/-- V-L2-F4: the destination is both sources. -/
theorem test_fadd_aliases :
    after (exec (.fadd 1 1 1) st) (·.fregs[1]?) = some (some (some ⟨177, 223⟩)) := by decide

theorem test_fsub_both_branches :
    after (exec (.fsub 9 8 1) st) (·.fregs[9]?) = some (some (some ⟨40, 223⟩)) ∧
    after (exec (.fsub 9 1 8) st) (·.fregs[9]?) = some (some (some ⟨183, 223⟩)) := by decide

theorem test_fmul :
    after (exec (.fmul 9 1 2) (st.writeF 1 ⟨150, 223⟩)) (·.fregs[9]?) =
      some (some (some ⟨150 * 100 % 223, 223⟩)) := by decide

/-- V-L2-F14: the double-width product is exact. -/
theorem test_fmul_wide :
    after (exec (.fmul 9 1 1) (st.writeF 1 ⟨secpPrime - 1, secpPrime⟩)) (·.fregs[9]?) =
      some (some (some ⟨1, secpPrime⟩)) := by decide

/-- V-L2-F15: `17 / 3`. -/
theorem test_fdiv : after (exec (.fdiv 9 8 7) st) (·.fregs[9]?) = some (some (some ⟨80, 223⟩)) := by
  decide

/-- V-L2-F18, F19: a zero divisor in both modes. -/
theorem test_fdiv_by_zero :
    after (exec (.fdiv 9 8 3) st) (·.ecode) = some 0x04 ∧
    after (exec (.fdiv 9 8 3) stR) (·.fregs[9]?) = some (some (some ⟨0, 223⟩)) := by decide

/-- V-L2-F20, and V-L2-F28: `0^0 = 1` at `p = 2`. -/
theorem test_finv :
    after (exec (.finv 9 7) st) (·.fregs[9]?) = some (some (some ⟨149, 223⟩)) ∧
    after (exec (.finv 9 1) (stR.writeF 1 ⟨0, 2⟩)) (·.fregs[9]?) = some (some (some ⟨1, 2⟩)) := by
  decide

/-- V-L2-F25: the inverse of 2 at the prime of secp256k1. -/
theorem test_finv_secp :
    after (exec (.finv 9 1) (st.writeF 1 ⟨2, secpPrime⟩)) (·.fregs[9]?) =
      some (some (some
        ⟨0x7FFFFFFFFFFFFFFFFFFFFFFFFFFFFFFFFFFFFFFFFFFFFFFFFFFFFFFF7FFFFE18, secpPrime⟩)) := by
  decide +kernel

/-- V-L2-F33 to F35: `5^224` under the three reductions. -/
theorem test_fpowu_reductions :
    fPowU .modP ⟨5, 223⟩ 224 = ⟨5, 223⟩ ∧ fPowU .modPMinus1 ⟨5, 223⟩ 224 = ⟨25, 223⟩ ∧
    fPowU .unreduced ⟨5, 223⟩ 224 = ⟨25, 223⟩ := by decide

/-- V-L2-F42: `2^(2^256 - 1)` with the exponent reduced modulo 223. -/
theorem test_fpowu :
    after (exec (.fpowu 9 1 1) (st.writeF 1 ⟨2, 223⟩)) (·.fregs[9]?) =
      some (some (some ⟨49, 223⟩)) := by decide

/-- V-L2-F43, F45, F49, F50: signed exponents. -/
theorem test_fpows :
    after (exec (.fpows 9 7 1) st) (·.fregs[9]?) = some (some (some ⟨149, 223⟩)) ∧
    after (exec (.fpows 9 7 2) st) (·.fregs[9]?) = some (some (some ⟨9, 223⟩)) ∧
    fPowS .fault ⟨3, 223⟩ (-223) = .ok ⟨149, 223⟩ ∧
    after (exec (.fpows 9 7 0) (st.writeS 0 (2 ^ 255))) (·.fregs[9]?) =
      some (some (some ⟨121, 223⟩)) := by
  refine ⟨by decide, by decide, by rfl, by decide⟩

/-- V-L2-F51, F52: zero to the power -1. -/
theorem test_fpows_of_zero :
    after (exec (.fpows 9 3 1) st) (·.ecode) = some 0x04 ∧
    after (exec (.fpows 9 3 1) stR) (·.fregs[9]?) = some (some (some ⟨0, 223⟩)) := by decide

/-- V-L2-F55, F58. -/
theorem test_feq :
    after (exec (.feq 1 1) st) (·.t) = some true ∧
    after (exec (.feq 1 4) { st with t := true }) (·.statusWord) = some 0x0000031E := by decide

/-- V-L2-F59, F61, F64. -/
theorem test_fnew :
    after (exec (.fnew 9) ((st.setDataA 192).setDataB 223)) (·.fregs[9]?) =
      some (some (some ⟨192, 223⟩)) ∧
    after (exec (.fnew 9) ((st.setDataA 223).setDataB 223)) (·.ecode) = some 0x01 ∧
    after (exec (.fnew 9) ((st.setDataA 5).setDataB 1)) (·.ecode) = some 0x12 := by decide

/-- V-L2-F68. -/
theorem test_frd :
    after (exec (.frd 5) st) (fun t => (t.dataA, t.dataB)) = some (192, 223) := by decide

/-! ## Curves and points (V-L2-P, V-L1) -/

/-- V-L2-P1, P2. -/
theorem test_cnew :
    after (exec (.cnew 2 3 9) (st.writeF 9 ⟨7, 223⟩)) (·.cregs[2]?) = some (some (some E223)) ∧
    after (exec (.cnew 2 3 4) st) (·.ecode) = some 0x03 := by decide

/-- V-L1-3: a valid and an invalid point. -/
theorem test_pnew :
    after (exec (.pnew 7 0 5 6) st) (·.pregs[7]?) = some (some (some (.affine E223 192 105))) ∧
    after (exec (.pnew 7 0 5 6) ((st.writeF 5 ⟨200, 223⟩).writeF 6 ⟨119, 223⟩)) (·.statusWord) =
      some 0x00000216 := by decide

/-- V-L2-P8: the primes are checked before the equation. -/
theorem test_pnew_mismatch_first :
    after (exec (.pnew 7 0 5 6) ((st.writeF 5 ⟨200, 227⟩).writeF 6 ⟨119, 227⟩)) (·.ecode) =
      some 0x03 := by decide

theorem test_pid : after (exec (.pid 7 0) st) (·.pregs[7]?) = some (some (some (.ident E223))) := by
  decide

/-- V-L2-P12, P14: chord and tangent. -/
theorem test_padd_chord_tangent :
    after (exec (.padd 7 3 4) st) (·.pregs[7]?) = some (some (some (.affine E223 220 181))) ∧
    after (exec (.padd 7 0 0) st) (·.pregs[7]?) = some (some (some (.affine E223 36 111))) := by
  decide

/-- V-L2-P16, P17, P19, P20, P26, P27: inverses, vertical tangent, identities, mismatch, `p = 2`. -/
theorem test_padd_special :
    after (exec (.padd 7 0 1) st) (·.pregs[7]?) = some (some (some (.ident E223))) ∧
    after (exec (.padd 7 5 5) st) (·.pregs[7]?) = some (some (some (.ident E223))) ∧
    after (exec (.padd 7 2 0) st) (·.pregs[7]?) = some (some (some (.affine E223 47 71))) ∧
    after (exec (.padd 7 0 2) st) (·.pregs[7]?) = some (some (some (.affine E223 47 71))) ∧
    after (exec (.padd 7 2 6) st) (·.ecode) = some 0x03 ∧
    pointAdd (.affine ⟨2, 1, 1⟩ 0 1) (.affine ⟨2, 1, 1⟩ 0 1) = .ident ⟨2, 1, 1⟩ := by decide

/-- V-L2-P29 to P33. -/
theorem test_peq :
    after (exec (.peq 0 0) st) (·.t) = some true ∧ after (exec (.peq 0 1) st) (·.t) = some false ∧
    after (exec (.peq 2 2) st) (·.t) = some true ∧ after (exec (.peq 2 0) st) (·.t) = some false ∧
    after (exec (.peq 2 6) st) (·.ecode) = some 0x03 := by decide

/-- V-L2-P37. -/
theorem test_pgetx :
    after (exec (.pgetx 9 3) st) (·.fregs[9]?) = some (some (some ⟨170, 223⟩)) ∧
    after (exec (.pgetx 9 2) st) (·.statusWord) = some 0x00001316 := by decide

theorem test_pgety :
    after (exec (.pgety 9 3) st) (·.fregs[9]?) = some (some (some ⟨142, 223⟩)) ∧
    after (exec (.pgety 9 2) st) (·.ecode) = some 0x13 := by decide

/-! ## Scalars (V-L1-5, V-L2-S) -/

theorem test_sld : after (exec (.sld 3) (st.setDataA 8)) (·.sregs[3]?) = some (some (some 8)) := by
  decide

/-- V-L2-S16: DATA_B is not written. -/
theorem test_sst :
    after (exec (.sst 0) ((st.setDataA 123).setDataB 77)) (fun t => (t.dataA, t.dataB)) =
      some (8, 77) := by decide

/-- V-L1-5, `k = 8`. -/
theorem test_pmuln :
    after (exec (.pmuln 7 0 0) st) (·.pregs[7]?) = some (some (some (.affine E223 116 55))) := by
  decide

theorem test_pmulb :
    after (exec (.pmulb 7 0 0) st) (·.pregs[7]?) = some (some (some (.affine E223 116 55))) := by
  decide

/-- V-L2-S9: the all-ones scalar takes W rounds. -/
theorem test_pmulb_all_ones :
    after (exec (.pmulb 7 0 1) st) (·.pregs[7]?) = some (some (some (.affine E223 139 86))) := by
  decide +kernel

/-- V-L1-6: seven times (15, 86) is the Identity. -/
theorem test_mul_order :
    mulNaive (.affine E223 15 86) 7 = .ident E223 ∧ mulBinary (.affine E223 15 86) 7 = .ident E223 ∧
    mulNaive (.affine E223 15 86) 6 = .affine E223 15 137 := by decide

/-- Log 17: over the composite modulus 6 the two algorithms of R212 and R213 give different triples of a
point of the curve, against the wording of R216. -/
theorem test_algorithms_differ_over_composite :
    PointVal.Ok 32 (.affine ⟨6, 0, 0⟩ 1 1) ∧ PointVal.OnItsCurve (.affine ⟨6, 0, 0⟩ 1 1) ∧
    mulNaive (.affine ⟨6, 0, 0⟩ 1 1) 3 = .affine ⟨6, 0, 0⟩ 1 1 ∧
    mulBinary (.affine ⟨6, 0, 0⟩ 1 1) 3 = .affine ⟨6, 0, 0⟩ 1 5 := by decide

/-! ## System, errors, window (V-L2-X, V-L2-M, L3-6) -/

/-- R240: NOP sets DONE and leaves STICKY_ERR. -/
theorem test_nop :
    after (step (issue 0 { st with stickyErr := true, err := true, ecode := 4 })) (·.statusWord) =
      some 0x00000012 := by decide

/-- V-L2-X1, X3: an illegal word, and an invalid source. -/
theorem test_errors :
    after (step (inFlight 0x12312001)) (·.statusWord) = some 0x00001016 ∧
    after (step (inFlight 0x1231E000)) (·.statusWord) = some 0x00001116 := by decide

/-- V-L2-M1 to M3. -/
theorem test_id :
    idWord cfgD = 0x337F0801 ∧ idWord cfgSmall = 0x00000101 ∧
    idWord { cfgD with w := 64, nf := 4, np := 2, nc := 2, ns := 2 } = 0x11130201 := by decide

/-- V-L2-M6: words and bytes of DATA_A. -/
theorem test_data_words :
    let a := writeWindow (State.resetOf cfgD) 0x100 0x02030405
    let b := writeWindow a 0x104 0x00000001
    b.dataA = 0x0102030405 ∧ windowByte b 0x100 = 0x05 ∧ windowByte b 0x103 = 0x02 ∧
    windowByte b 0x104 = 0x01 := by decide

/-- V-L2-M8: offsets beyond the buffer read 0 and ignore writes. -/
theorem test_reserved :
    readWindow { st with dataA := 2 ^ 256 - 1 } 0x120 = 0 ∧ writeWindow st 0x120 5 = st := by decide

/-- V-L2-M9, M10: issue, then writes while busy. -/
theorem test_busy_writes :
    let b := writeWindow (State.resetOf cfgD) 0x00C 0x12312000
    b.statusWord = 0x00000001 ∧
    (writeWindow (writeWindow b 0x100 9) 0x00C 0).statusWord = 0x00000021 ∧
    (writeWindow b 0x100 9).dataA = 0 ∧ (writeWindow b 0x00C 0).cmd = 0x12312000 := by decide

/-- R34, R33, R35: Host reads of STATUS, CTRL and CMD while a command is in flight. -/
theorem test_host_reads :
    after (step (coming (inFlight 0x12312000) (.read 0x1008 4))) (·.response) =
      some (some (.readData 0x00000001)) ∧
    after (step (coming (inFlight 0x12312000) (.read 0x1004 4))) (·.response) =
      some (some (.readData 0)) ∧
    after (step (coming (inFlight 0x12312000) (.read 0x100C 4))) (·.response) =
      some (some (.readData 0x12312000)) := by decide

/-- R242: the worked example. -/
theorem test_status_write :
    (writeWindow { st with done := true, err := true, stickyErr := true, ecode := 4 } 0x008
      0x00000010).statusWord = 0x00000406 := by decide

/-- V-L2-M16: a soft reset while busy. -/
theorem test_soft_reset :
    after (step (coming (inFlight 0x12312000) (.write 0x1004 4 1))) (fun t =>
      (t.statusWord, t.cmd, t.fregs[1]?)) = some (0, 0, some none) := by decide

/-- R63: both settings of BAD_ACCESS_MODE. -/
theorem test_bad_access :
    after (step (coming st (.read 0x1002 4))) (·.response) = some (some .busError) ∧
    after (step (coming st (.write 0x1100 8 5))) (·.dataA) = some 0 ∧
    after (step (coming stR (.read 0x1000 1))) (·.response) = some (some (.readData 0)) := by decide

/-- R280: no response while reset is asserted; the command in flight is gone after it. -/
theorem test_reset_line :
    after (step { inFlight 0x12312000 with agenda := [.assertReset] }) (·.resetLine) = some true ∧
    after (step { st with resetLine := true, agenda := [.read 0x1000 4] }) (·.response) =
      some (some .noResponse) ∧
    after (step { st with resetLine := true, agenda := [.releaseReset] }) (·.sregs) =
      some [none, none, none, none] := by decide

/-- A read outside the window is not ECC-CORE's (log 6). -/
theorem test_outside_window : step (coming st (.read 0x1400 4)) = .fault (.outsideWindow 0x1400) := by
  rfl

/-- The placed word runs first after reset: `SLD s1` completes. -/
theorem test_withFetchWord :
    after (step (State.reset.withFetchWord 32 0x20100000)) (·.sregs[1]?) = some (some (some 0)) := by
  decide

/-! ## Witnesses: states and operands that meet the hypotheses of each statement

`st` holds a value of every class of register; `inFlight` has a command in flight; `coming` has one event
on the agenda. -/

theorem witness_legal_parameters : cfgD.Legal ∧ cfgR.Legal ∧ cfgSmall.Legal ∧
    Config.Legal { cfgD with w := 2048, nf := 16, nc := 16, np := 16, ns := 16 } := by decide

/-- The invariant of a state from the same facts over the entries of its files, which `decide` closes. -/
theorem inv_of_entries {s : State} (legal : s.cfg.Legal)
    (counts : s.fregs.length = s.cfg.nf ∧ s.cregs.length = s.cfg.nc ∧ s.pregs.length = s.cfg.np ∧
      s.sregs.length = s.cfg.ns)
    (felts : ∀ o ∈ s.fregs, ∀ v ∈ o, v.Ok s.cfg.w) (curves : ∀ o ∈ s.cregs, ∀ v ∈ o, v.Ok s.cfg.w)
    (points : ∀ o ∈ s.pregs, ∀ v ∈ o, v.Ok s.cfg.w)
    (scalars : ∀ o ∈ s.sregs, ∀ k ∈ o, k < 2 ^ s.cfg.w)
    (buffers : s.dataA < 2 ^ s.cfg.w ∧ s.dataB < 2 ^ s.cfg.w) (status : s.StatusLegal)
    (quiet : s.resetLine = true → s.busy = false) : s.Inv where
  legal := legal
  countF := counts.1
  countC := counts.2.1
  countP := counts.2.2.1
  countS := counts.2.2.2
  felts v h := felts _ h v rfl
  curves v h := curves _ h v rfl
  points v h := points _ h v rfl
  scalars v h := scalars _ h v rfl
  bufferA := buffers.1
  bufferB := buffers.2
  status := status
  quiet := quiet

theorem felt_ok_of_lt {v : Felt} (h : 2 ≤ v.prime ∧ v.prime < 2 ^ 32 ∧ v.inner < v.prime) :
    v.Ok 256 := ⟨h.1, by omega, h.2.2⟩

theorem curve_ok_of_lt {e : CurveRec} (h : e.Ok 32) : e.Ok 256 :=
  ⟨h.1, by have := h.2.1; omega, h.2.2⟩

/-- What `point_ok_of_check` needs of a point value, as a check. -/
def pointCheck : PointVal → Bool
  | .ident e => decide (e.Ok 32)
  | .affine e x y => decide (e.Ok 32 ∧ x < e.p ∧ y < e.p)

theorem point_ok_of_check {v : PointVal} (h : pointCheck v = true) : v.Ok 256 := by
  cases v with
  | ident e => exact ⟨curve_ok_of_lt (of_decide_eq_true h), trivial⟩
  | affine e x y =>
    have h' := of_decide_eq_true h
    exact ⟨curve_ok_of_lt h'.1, h'.2⟩

theorem st_inv : st.Inv := by
  refine inv_of_entries (by decide) (by decide) ?_ ?_ ?_ ?_ (by decide) (.inl (by decide)) (by decide)
  · exact fun o ho v hv => felt_ok_of_lt
      ((by decide : ∀ o ∈ st.fregs, ∀ v ∈ o, v.Ok 32) o ho v hv)
  · exact fun o ho v hv => curve_ok_of_lt
      ((by decide : ∀ o ∈ st.cregs, ∀ v ∈ o, v.Ok 32) o ho v hv)
  · exact fun o ho v hv => point_ok_of_check
      ((by decide : ∀ o ∈ st.pregs, ∀ v ∈ o, pointCheck v = true) o ho v hv)
  · decide

theorem stR_inv : stR.Inv :=
  ⟨by decide, st_inv.countF, st_inv.countC, st_inv.countP, st_inv.countS, st_inv.felts,
    st_inv.curves, st_inv.points, st_inv.scalars, st_inv.bufferA, st_inv.bufferB, .inl (by decide),
    by decide⟩

theorem inFlight_inv (w : Word) : (inFlight w).Inv :=
  ⟨st_inv.legal, st_inv.countF, st_inv.countC, st_inv.countP, st_inv.countS, st_inv.felts,
    st_inv.curves, st_inv.points, st_inv.scalars, st_inv.bufferA, st_inv.bufferB,
    .inl ⟨rfl, rfl, rfl⟩, fun h => nomatch h⟩

/-! ### Encoding -/

theorem witness_DecodeOfEncode : Instr.wellFormed cfgD (.pnew 7 3 15 0) = true ∧
    Instr.wellFormed cfgD (.pmulb 7 0 3) = true ∧ Instr.wellFormed cfgSmall (.pnew 0 0 0 0) = true := by
  decide

theorem witness_EncodeOfDecode : decode cfgD 0x00000000 = some .nop ∧
    decode cfgD 0x4073F100 = some (.pnew 7 3 15 1) := by decide

theorem witness_AtMostOneRowSelectsAWord :
    (0x12312000 : Word) &&& opcodeTable[3].mask = opcodeTable[3].pattern ∧
    (0x4073F100 : Word) &&& opcodeTable[14].mask = opcodeTable[14].pattern := by decide

/-- The bounds of the ranges of R96, and the opcodes next to them. -/
theorem witness_ReservedOpcodesAreIllegal :
    (∀ op ∈ [0x01, 0x0F, 0x1A, 0x1F, 0x22, 0x2F, 0x31, 0x3F, 0x48, 0xFF],
      Claims.ReservedOpcode op) ∧
    (∀ op ∈ [0x00, 0x10, 0x19, 0x20, 0x21, 0x30, 0x40, 0x47], ¬ Claims.ReservedOpcode op) ∧
    Claims.ReservedOpcode (opField 0x01000000) := by
  unfold Claims.ReservedOpcode
  decide

theorem witness_IllegalCommandExactlyForIllegalWords :
    (inFlight 0x12312001).busy = true ∧ (inFlight 0x12312001).resetLine = false ∧
    nextEvent (inFlight 0x12312001) = .engine ∧ (inFlight 0x12312001).err = false := by decide

/-- The four ways a word is illegal: reserved opcode, nonzero `z`, unused field, index beyond its file. -/
theorem witness_IllegalWord : Claims.IllegalWord cfgD 0x01000000 ∧ Claims.IllegalWord cfgD 0x12312001 ∧
    Claims.IllegalWord cfgD 0x12312100 ∧ Claims.IllegalWord cfgD 0x42800000 := by
  refine ⟨.inl (by unfold Claims.ReservedOpcode; decide), .inr ⟨opcodeTable[3], by simp, by decide,
    .inl (by decide)⟩, .inr ⟨opcodeTable[3], by simp, by decide, ?_⟩,
    .inr ⟨opcodeTable[16], by simp, by decide, ?_⟩⟩
  · exact .inr (.inr (.inr (.inr (show ¬ rs3Field 0x12312100 = 0 by decide))))
  · exact .inr (.inl (show ¬ (rdField 0x42800000).toNat < cfgD.np by decide))

theorem witness_StepRunsDecodedCommand :
    ((inFlight 0x12312000).busy = true ∧ (inFlight 0x12312000).resetLine = false ∧
      nextEvent (inFlight 0x12312000) = .engine ∧
      decode (inFlight 0x12312000).cfg (inFlight 0x12312000).cmd = some (.fadd 3 1 2)) ∧
    (st.busy = false ∧ nextEvent st = .engine) ∧
    decode st.cfg (BitVec.ofNat 32 (0x12312000 % 2 ^ 32)) = some (.fadd 3 1 2) := by decide

theorem witness_AssemblerReadsCommandsAndPseudoInstructions :
    Instr.wellFormed cfgD (.pnew 7 3 15 0) = true ∧ "FCMP" ≠ "FSQR" ∧ "FCMP" ≠ "PDBL" ∧
    ∀ r ∈ opcodeTable, r.mnemonic ≠ "FCMP" := by decide

/-! ### Reset and the window -/

theorem witness_ResetMeetsInvariant : cfgD.Legal ∧ cfgSmall.Legal := by decide

/-- CTRL bit 0 written as 1 and as 0, with a command in flight. -/
theorem witness_SoftResetResetsEverything :
    let s := coming (inFlight 0x12312000) (.write 0x1004 4 1)
    let u := coming (inFlight 0x12312000) (.write 0x1004 4 0xFFFFFFFE)
    (s.resetLine = false ∧ nextEvent s = .write (s.cfg.base + 0x004) 4 1 ∧
      (1 : Word).getLsbD 0 = true) ∧
    (u.resetLine = false ∧ nextEvent u = .write (u.cfg.base + 0x004) 4 0xFFFFFFFE ∧
      (0xFFFFFFFE : Word).getLsbD 0 = false) ∧
    after (step s) nextEvent = some .engine := by decide

/-- Assertion, a read and a write at the ends of the window while asserted, and release. -/
theorem witness_HardwareResetResetsEverything :
    let a := { st with resetLine := true }
    nextEvent (coming st .assertReset) = .assertReset ∧
    (a.resetLine = true ∧ a.cfg.base ≤ 0x1000 ∧ 0x13FF < a.cfg.base + 0x400 ∧
      nextEvent (coming a (.read 0x1000 4)) = .read 0x1000 4 ∧
      nextEvent (coming a (.write 0x13FF 1 5)) = .write 0x13FF 1 5) ∧
    nextEvent (coming a .releaseReset) = .releaseReset := by decide

theorem witness_StatusWordLayout :
    (inFlight 7).resetLine = false ∧
    nextEvent (coming (inFlight 7) (.read 0x1008 4)) = .read (cfgD.base + 0x008) 4 ∧
    nextEvent (coming (inFlight 7) (.read 0x1004 4)) = .read (cfgD.base + 0x004) 4 ∧
    nextEvent (coming (inFlight 7) (.read 0x100C 4)) = .read (cfgD.base + 0x00C) 4 := by decide

theorem witness_StatusWriteClearsStickyBits :
    let s := coming { inFlight 0 with stickyErr := true, ovr := true } (.write 0x1008 4 0x10)
    s.resetLine = false ∧ nextEvent s = .write (s.cfg.base + 0x008) 4 0x10 := by decide

theorem witness_IdReadsTheParameters :
    let s := coming st (.read 0x1000 4)
    let u := coming st (.write 0x1000 4 7)
    s.cfg.Legal ∧ s.resetLine = false ∧ nextEvent s = .read s.cfg.base 4 ∧ u.resetLine = false ∧
    nextEvent u = .write u.cfg.base 4 7 := by decide

theorem witness_ReadsHaveNoSideEffect :
    let s := { st with agenda := [.read 0x13FC 4, .read 0x13FC 4, .engine] }
    nextEvent s = .read 0x13FC 4 ∧ s.cfg.base ≤ 0x13FC ∧ 0x13FC < s.cfg.base + 0x400 ∧
    s.resetLine = false ∧ (0x13FC - s.cfg.base) % 4 = 0 ∧
    s.agenda = .read 0x13FC 4 :: .read 0x13FC 4 :: [.engine] := by decide

/-- The bounds of the three ranges at the default width, and at the greatest width, where the buffer of
DATA_A ends where DATA_B begins. -/
theorem witness_ReservedOffsetsReadZeroIgnoreWrites :
    (∀ off ∈ [0x010, 0x0FC, 0x120, 0x1FC, 0x220, 0x3FC],
      Claims.ReservedOffset cfgD off ∧ off % 4 = 0) ∧
    (∀ off ∈ [0x000, 0x00C, 0x100, 0x11C, 0x200, 0x21C], ¬ Claims.ReservedOffset cfgD off) ∧
    ¬ Claims.ReservedOffset { cfgD with w := 2048 } 0x1FC ∧ cfgD.Legal ∧ st.resetLine = false ∧
    nextEvent (coming st (.read (0x1000 + 0x120) 4)) = .read (cfgD.base + 0x120) 4 ∧
    nextEvent (coming st (.write (0x1000 + 0x3FC) 4 5)) = .write (cfgD.base + 0x3FC) 4 5 := by
  unfold Claims.ReservedOffset
  decide

/-- A narrow access at an aligned offset, and a 32-bit access at the window's last byte. -/
theorem witness_BadAccessesChangeNothing :
    let s := coming st (.read 0x1100 1)
    let u := coming stR (.write 0x13FF 4 5)
    (s.resetLine = false ∧ 0x100 < 0x400 ∧ nextEvent s = .read (s.cfg.base + 0x100) 1 ∧
      s.cfg.badAccessMode = .busError) ∧
    (u.resetLine = false ∧ 0x3FF < 0x400 ∧ 0x3FF % 4 ≠ 0 ∧
      nextEvent u = .write (u.cfg.base + 0x3FF) 4 5 ∧ u.cfg.badAccessMode = .ignore) := by decide

/-- Each kind of access while a command is in flight: CMD, the first and the last word of the buffers, CTRL,
STATUS, and reads at both ends of the window. -/
theorem witness_BusyWritesAreDroppedAndSetOvr :
    let s := coming (inFlight 0x12312000)
    (inFlight 0x12312000).cfg.Legal ∧ (inFlight 0x12312000).resetLine = false ∧
    (inFlight 0x12312000).busy = true ∧
    nextEvent (s (.write 0x100C 4 0)) = .write (cfgD.base + 0x00C) 4 0 ∧
    nextEvent (s (.write 0x1100 4 9)) = .write (cfgD.base + (0x100 + 4 * 0)) 4 9 ∧
    nextEvent (s (.write 0x121C 4 9)) = .write (cfgD.base + (0x200 + 4 * 7)) 4 9 ∧
    7 < cfgD.w / 32 ∧
    (nextEvent (s (.write 0x1004 4 1)) = .write (cfgD.base + 0x004) 4 1 ∧
      (1 : Word).getLsbD 0 = true) ∧
    nextEvent (s (.write 0x1008 4 0x30)) = .write (cfgD.base + 0x008) 4 0x30 ∧
    nextEvent (s (.read 0x1000 4)) = .read (cfgD.base + 0) 4 ∧
    nextEvent (s (.read 0x13FC 4)) = .read (cfgD.base + 0x3FC) 4 := by decide

theorem witness_CmdWriteIssuesTheWord :
    let s := coming st (.write 0x100C 4 0xFFFFFFFF)
    s.resetLine = false ∧ s.busy = false ∧ nextEvent s = .write (s.cfg.base + 0x00C) 4 0xFFFFFFFF := by
  decide

/-- The first word of DATA_A and the last of DATA_B. -/
theorem witness_DataWordReadsBack :
    let s := coming st (.write 0x1100 4 9)
    let u := coming st (.write 0x121C 4 9)
    s.cfg.Legal ∧ s.resetLine = false ∧ s.busy = false ∧ 7 < s.cfg.w / 32 ∧
    nextEvent s = .write (s.cfg.base + (0x100 + 4 * 0)) 4 9 ∧
    nextEvent u = .write (u.cfg.base + (0x200 + 4 * 7)) 4 9 := by decide

theorem witness_BytesAndWordsAreLeastSignificantFirst : st.Inv ∧ 0x3FC % 4 = 0 := ⟨st_inv, by decide⟩

theorem witness_InFlightOperandsStayFixed :
    let s := coming (inFlight 0x12312000) (.write 0x1004 4 2)
    let u := coming (inFlight 0x12312000) (.read 0x1101 2)
    (s.busy = true ∧ nextEvent s = .write 0x1004 4 2 ∧
      ¬ (0x1004 = s.cfg.base + 0x004 ∧ 4 = 4 ∧ (2 : Word).getLsbD 0 = true) ∧
      (next? (step s)).isSome = true) ∧
    (u.busy = true ∧ nextEvent u = .read 0x1101 2 ∧ (next? (step u)).isSome = true) := by decide

/-! ### Whole-machine rules -/

theorem witness_StepKeepsInvariant :
    (inFlight 0x12312000).Inv ∧ ∃ t, step (inFlight 0x12312000) = .next t := ⟨inFlight_inv _, _, rfl⟩

theorem st_points_on_curve : st.PointsOnCurve := by
  have h : ∀ o ∈ st.pregs, ∀ v ∈ o, (match v with
      | .ident _ => true
      | .affine e x y => onCurve e x y) = true := by decide
  intro v hv _
  have := h _ hv v rfl
  cases v with
  | ident e => trivial
  | affine e x y => exact this

/-- PADD over the prime 223, with points of the curve. -/
theorem witness_StepKeepsPointsOnCurve :
    (inFlight 0x42734000).Inv ∧ (inFlight 0x42734000).PointsOnCurve ∧
    (PointVal.affine E223 170 142).curve.p.Prime ∧ ∃ t, step (inFlight 0x42734000) = .next t :=
  ⟨inFlight_inv _, st_points_on_curve, by norm_num [PointVal.curve, E223], _, rfl⟩

theorem witness_StepKeepsParameters : ∃ t, step (coming st .assertReset) = .next t := ⟨_, rfl⟩

theorem witness_StepsStopOnlyOutsideTheWindow :
    (∀ e ∈ [Event.read 0x1000 4, .write 0x13FF 1 0, .engine, .assertReset, .releaseReset],
      e.InWindow cfgD) ∧
    step (coming st (.write 0xFFF 4 0)) = .fault (.outsideWindow 0xFFF) := by
  refine ⟨?_, rfl⟩
  intro e he
  fin_cases he <;> simp [Event.InWindow, cfgD]

theorem witness_CommandsWriteOnlyTheirDestination :
    (∃ t, exec (.fadd 9 1 2) st = .next t) ∧ (∀ rd, (Instr.fadd 9 1 2).dest = some (.F, rd) →
      rd.toNat ≠ 8) ∧ (∀ rd, (Instr.fadd 9 1 2).dest ≠ some (.P, rd)) ∧
    (∀ r, (Instr.fadd 9 1 2) ≠ .frd r ∧ (Instr.fadd 9 1 2) ≠ .sst r) := by
  refine ⟨⟨_, rfl⟩, ?_, ?_, ?_⟩
  · intro rd h; cases h; decide
  · intro rd h; cases h
  · intro r; exact ⟨nofun, nofun⟩

/-- T set by FEQ, and cleared by a soft reset. -/
theorem witness_TestFlagChangesOnlyByEqualityOrReset :
    (st.t = false ∧ after (step (inFlight 0x19011000)) (·.t) = some true) ∧
    after (step (coming { st with t := true } (.write 0x1004 4 1))) (·.t) = some false := by decide

theorem witness_CommandsNeverClearValidBits :
    st.isValid (.F, 1) = true ∧ st.Inv ∧ Instr.wellFormed st.cfg (.fadd 9 1 2) = true ∧
    st.err = false ∧ after (exec (.fadd 9 1 2) st) (·.err) = some false ∧
    (Instr.fadd 9 1 2).dest = some (.F, 9) := ⟨by decide, st_inv, by decide, by decide, by decide, rfl⟩

/-! ### Errors -/

/-- A state of which each "exactly" statement's right side holds, for the first and for the last source. -/
theorem witness_UninitializedRegisterExactly :
    st.err = false ∧ (∃ o ∈ (Instr.fadd 3 1 14).sources, st.isValid o = false) ∧
    (∃ o ∈ (Instr.pnew 7 0 1 14).sources, st.isValid o = false) ∧
    (∀ o ∈ (Instr.fadd 14 1 2).sources, st.isValid o = true) := by decide

/-- One operand pair for each clause of R256. -/
theorem witness_CurveMismatchExactly :
    st.err = false ∧ Claims.Mismatch (.fadd 9 1 4) st ∧ Claims.Mismatch (.fsub 9 1 4) st ∧
    Claims.Mismatch (.fmul 9 1 4) st ∧ Claims.Mismatch (.fdiv 9 1 4) st ∧
    Claims.Mismatch (.feq 1 4) st ∧ Claims.Mismatch (.cnew 3 1 4) st ∧
    Claims.Mismatch (.pnew 7 0 1 4) st ∧ Claims.Mismatch (.padd 7 2 6) st ∧
    Claims.Mismatch (.peq 2 6) st :=
  ⟨rfl, ⟨_, _, rfl, rfl, by decide⟩, ⟨_, _, rfl, rfl, by decide⟩, ⟨_, _, rfl, rfl, by decide⟩,
    ⟨_, _, rfl, rfl, by decide⟩, ⟨_, _, rfl, rfl, by decide⟩, ⟨_, _, rfl, rfl, by decide⟩,
    ⟨_, _, _, rfl, rfl, rfl, by decide⟩, ⟨_, _, rfl, rfl, by decide⟩, ⟨_, _, rfl, rfl, by decide⟩⟩

/-- One operand for each clause of R257. -/
theorem witness_DivisionByZeroExactly :
    st.Inv ∧ st.err = false ∧ st.cfg.div0Mode = .fault ∧ Claims.ZeroDivisor (.fdiv 9 1 3) st ∧
    Claims.ZeroDivisor (.finv 9 3) st ∧ Claims.ZeroDivisor (.fpows 9 3 1) st :=
  ⟨st_inv, rfl, rfl, ⟨_, _, rfl, rfl, rfl, rfl⟩, ⟨_, rfl, rfl⟩,
    ⟨_, _, rfl, rfl, rfl, by unfold Claims.signed; decide⟩⟩

theorem witness_PointNotOnCurveExactly :
    st.err = false ∧ st.HasC 0 E223 ∧ st.HasF 1 ⟨200, E223.p⟩ ∧ st.HasF 2 ⟨100, E223.p⟩ ∧
    (100 ^ 2) % E223.p ≠ (200 ^ 3 + E223.a * 200 + E223.b) % E223.p := by decide

theorem witness_NoCoordinatesExactly : st.err = false ∧ st.HasP 2 (.ident E223) := by decide

/-- The bounds of the two conditions of R129. -/
theorem witness_FnewErrorsExactly :
    st.err = false ∧ ((st.setDataB 1).err = false ∧ (st.setDataB 1).dataB < 2) ∧
    (2 ≤ ((st.setDataA 2).setDataB 2).dataB ∧
      ((st.setDataA 2).setDataB 2).dataB ≤ ((st.setDataA 2).setDataB 2).dataA) := by decide

/-! ### Results -/

theorem witness_FnewWritesElement :
    2 ≤ ((st.setDataA 1).setDataB 2).dataB ∧
    ((st.setDataA 1).setDataB 2).dataA < ((st.setDataA 1).setDataB 2).dataB := by decide

theorem witness_FrdWritesBuffers : st.HasF 5 ⟨192, 223⟩ := by decide

theorem witness_FaddFsubFmulWriteExactResults :
    st.Inv ∧ st.HasF 8 ⟨17, 223⟩ ∧ st.HasF 1 ⟨200, 223⟩ := ⟨st_inv, by decide, by decide⟩

/-- A nonzero divisor, and a zero one in the mode `REFERENCE_FORMULA`. -/
theorem witness_FdivAndFinvWriteTheFormula :
    (st.HasF 8 ⟨17, 223⟩ ∧ st.HasF 7 ⟨3, 223⟩) ∧
    (stR.HasF 3 ⟨0, 223⟩ ∧ stR.cfg.div0Mode = .referenceFormula) := by decide

theorem witness_FpowuWritesPowerByReduction : st.HasF 7 ⟨3, 223⟩ ∧ st.HasS 2 224 := by decide

/-- A positive, a zero and a negative exponent, and the bounds of the signed range. -/
theorem witness_FpowsWritesPowerBySign :
    st.Inv ∧ st.HasF 7 ⟨3, 223⟩ ∧ (st.HasS 0 8 ∧ 0 < Claims.signed st.cfg.w 8) ∧
    (st.HasS 3 0 ∧ Claims.signed st.cfg.w 0 = 0) ∧
    (st.HasS 1 (2 ^ 256 - 1) ∧ Claims.signed st.cfg.w (2 ^ 256 - 1) < 0) ∧
    (stR.Inv ∧ stR.HasF 3 ⟨0, 223⟩ ∧ stR.cfg.div0Mode = .referenceFormula) ∧
    0 < Claims.signed 256 (2 ^ 255 - 1) ∧ Claims.signed 256 (2 ^ 255) < 0 := by
  refine ⟨st_inv, by decide, ?_, ?_, ?_, ⟨stR_inv, by decide, rfl⟩, ?_, ?_⟩ <;>
    (unfold Claims.signed; decide)

theorem witness_FeqWritesTestFlag : st.HasF 1 ⟨200, 223⟩ ∧ st.HasF 2 ⟨100, 223⟩ := by decide

theorem witness_SldAndSstMovePatterns : st.HasS 0 8 := by decide

theorem witness_CnewWritesCurveRecord : st.HasF 3 ⟨0, 223⟩ ∧ st.HasF 8 ⟨17, 223⟩ := by decide

theorem witness_PnewAndPidWritePoints :
    st.HasC 0 E223 ∧ st.HasF 5 ⟨192, E223.p⟩ ∧ st.HasF 6 ⟨105, E223.p⟩ ∧
    (105 ^ 2) % E223.p = (192 ^ 3 + E223.a * 192 + E223.b) % E223.p := by decide

/-- Identities, inverses, tangent and chord: the operands of each rule of R175. -/
theorem witness_PaddFollowsGroupLaw :
    st.Inv ∧ st.HasP 2 (.ident E223) ∧ st.HasP 0 (.affine E223 47 71) ∧
    st.HasP 1 (.affine E223 47 152) ∧ st.HasP 3 (.affine E223 170 142) ∧
    st.HasP 5 (.affine E223 6 0) :=
  ⟨st_inv, by decide, by decide, by decide, by decide, by decide⟩

theorem witness_PeqWritesTestFlag :
    st.HasP 2 (.ident E223) ∧ st.HasP 0 (.affine E223 47 71) ∧
    PointVal.curve (.ident E223) = PointVal.curve (.affine E223 47 71) := by decide

theorem witness_PgetxAndPgetyWriteCoordinates : st.HasP 3 (.affine E223 170 142) := by decide

/-- A point and the Identity, and the scalars 0, 8 and all ones. -/
theorem witness_PmulnAddsRepeatedly :
    st.HasP 0 (.affine E223 47 71) ∧ st.HasP 2 (.ident E223) ∧ st.HasS 3 0 ∧ st.HasS 0 8 := by decide

theorem witness_PmulbDoublesAndAdds :
    st.HasP 0 (.affine E223 47 71) ∧ st.HasS 3 0 ∧ st.HasS 1 (2 ^ 256 - 1) := by decide

/-! ### Laws -/

theorem prime_223 : Nat.Prime 223 := by norm_num

theorem witness_FieldLawsOverPrimes :
    (Felt.mk 200 223).prime.Prime ∧ (Felt.mk 100 223).prime = (Felt.mk 200 223).prime ∧ 200 < 223 ∧
    (2 ≤ ((st.setDataA 1).setDataB 2).dataB ∧
      ((st.setDataA 1).setDataB 2).dataA < ((st.setDataA 1).setDataB 2).dataB ∧
      (15 : RegIdx).toNat < ((st.setDataA 1).setDataB 2).fregs.length) :=
  ⟨prime_223, by decide, by decide, by decide⟩

/-- Both branches of the subtraction, and their common bound. -/
theorem witness_SubtractionNeverUnderflows :
    (Felt.mk 17 223).inner < (Felt.mk 200 223).inner ∧ (200 : Nat) < 223 ∧ (0 : Nat) < 223 ∧
    (Felt.mk 17 223).prime = (Felt.mk 200 223).prime := by decide

theorem witness_InverseMultipliesToOne :
    (Felt.mk 222 223).prime.Prime ∧ (Felt.mk 222 223).inner < (Felt.mk 222 223).prime ∧
    (Felt.mk 222 223).inner ≠ 0 := ⟨prime_223, by decide, by decide⟩

/-- A tangent and a chord. -/
theorem witness_GroupLawNeverDividesByZero :
    (47 < E223.p ∧ 71 < E223.p ∧ ¬ (47 = 47 ∧ (71 ≠ 71 ∨ (71 + 71) % E223.p = 0))) ∧
    (170 < E223.p ∧ 142 < E223.p ∧ 60 < E223.p ∧ 139 < E223.p ∧ ¬ (170 = 60 ∧ (142 ≠ 139 ∨ (142 + 139) % E223.p = 0))) := by
  decide

theorem pointOver_47 : Claims.PointOver E223 (.affine E223 47 71) :=
  ⟨rfl, ⟨by decide, by decide⟩, by decide⟩

theorem pointOver_170 : Claims.PointOver E223 (.affine E223 170 142) :=
  ⟨rfl, ⟨by decide, by decide⟩, by decide⟩

theorem pointOver_ident : Claims.PointOver E223 (.ident E223) := ⟨rfl, trivial, trivial⟩

theorem witness_PointAdditionCommutesOverPrimes :
    E223.p.Prime ∧ Claims.PointOver E223 (.affine E223 47 71) ∧
    Claims.PointOver E223 (.affine E223 170 142) := ⟨prime_223, pointOver_47, pointOver_170⟩

theorem witness_PointAdditionAssociatesOnNonsingularCurves :
    E223.p.Prime ∧ 3 < E223.p ∧ E223.NonSingular ∧ Claims.PointOver E223 (.affine E223 47 71) ∧
    Claims.PointOver E223 (.affine E223 170 142) ∧ Claims.PointOver E223 (.ident E223) :=
  ⟨prime_223, by decide, by decide, pointOver_47, pointOver_170, pointOver_ident⟩

theorem witness_AlgorithmsAgreeOnNonsingularCurves :
    E223.p.Prime ∧ 3 < E223.p ∧ E223.NonSingular ∧ Claims.PointOver E223 (.affine E223 47 71) :=
  ⟨prime_223, by decide, by decide, pointOver_47⟩

end Sys2Proof.Tests
end

/-! PROOF. O24: every step keeps the invariant. The layers: the values the field functions and the group
law compute are legal; each named state update keeps the invariant; so does every command, every Host
access and every event. -/

namespace Sys2Proof.Machine

/-! ## Legal field elements (R21) -/

section FieldValues
variable {w : Nat} {a b v : Felt}

theorem Felt.Ok.prime_pos (h : a.Ok w) : 0 < a.prime := Nat.zero_lt_of_lt h.1

theorem Felt.Ok.inner_lt (h : a.Ok w) : a.inner < a.prime := h.2.2

/-- A residue modulo the prime of a legal element is a legal element. -/
theorem Felt.Ok.of_residue (h : a.Ok w) {r : Nat} (hr : r < a.prime) : Felt.Ok w ⟨r, a.prime⟩ :=
  ⟨h.1, h.2.1, hr⟩

theorem fAdd_ok (ha : a.Ok w) : (fAdd a b).Ok w := ha.of_residue (addMod_lt ha.prime_pos)

theorem fSub_ok (ha : a.Ok w) : (fSub a b).Ok w := ha.of_residue (subMod_lt ha.inner_lt)

theorem fMul_ok (ha : a.Ok w) : (fMul a b).Ok w := ha.of_residue (mulMod_lt ha.prime_pos)

/-- R125: an inverse, under either DIV0_MODE, is the residue `invMod` gives. -/
theorem fInv_eq_ok {mode : Div0Mode} (h : fInv mode b = .ok v) :
    v = ⟨invMod b.prime b.inner, b.prime⟩ := by
  unfold fInv at h
  split at h
  · cases h; rfl
  · cases mode with
    | fault => cases h
    | referenceFormula => cases h; rfl

theorem fInv_ok {mode : Div0Mode} (hb : b.Ok w) (h : fInv mode b = .ok v) : v.Ok w := by
  rw [fInv_eq_ok h]
  exact hb.of_residue (powMod_lt hb.prime_pos)

theorem fDiv_ok {mode : Div0Mode} (ha : a.Ok w) (h : fDiv mode a b = .ok v) : v.Ok w := by
  unfold fDiv at h
  split at h
  · cases h
  · cases h; exact ha.of_residue (mulMod_lt ha.prime_pos)

theorem fPowU_ok {mode : PowuReduction} {e : Nat} (ha : a.Ok w) : (fPowU mode a e).Ok w :=
  ha.of_residue (powMod_lt ha.prime_pos)

theorem fPowS_ok {mode : Div0Mode} {e : Int} (ha : a.Ok w) (h : fPowS mode a e = .ok v) :
    v.Ok w := by
  unfold fPowS at h
  split_ifs at h
  · cases h; exact ha.of_residue (powMod_lt ha.prime_pos)
  · cases h; exact ha.of_residue ha.1
  · cases h; exact ha.of_residue (powMod_lt ha.prime_pos)

end FieldValues

/-! ## Legal points (R24) -/

section PointValues
variable {w : Nat} {e : CurveRec} {P Q : PointVal}

theorem thirdY_lt {p s x1 y1 x3 : Nat} (hp : 0 < p) : thirdY p s x1 y1 x3 < p :=
  subMod_lt (mulMod_lt hp)

theorem doublePoint_reduced {x1 y1 : Nat} (hp : 0 < e.p) : (doublePoint e x1 y1).Reduced :=
  ⟨subMod_lt (mulMod_lt hp), thirdY_lt hp⟩

theorem chordPoint_reduced {x1 y1 x2 y2 : Nat} (hp : 0 < e.p) :
    (chordPoint e x1 y1 x2 y2).Reduced :=
  ⟨subMod_lt (subMod_lt (mulMod_lt hp)), thirdY_lt hp⟩

/-- R175: every rule of the group law answers reduced coordinates. -/
theorem pointAdd_reduced (hp : 0 < P.curve.p) (hP : P.Reduced) (hQ : Q.Reduced) :
    (pointAdd P Q).Reduced := by
  cases P with
  | ident _ => exact hQ
  | affine e x1 y1 =>
    cases Q with
    | ident _ => exact hP
    | affine _ x2 y2 =>
      simp only [pointAdd]
      split_ifs
      · trivial
      · exact doublePoint_reduced hp
      · exact chordPoint_reduced hp

theorem PointVal.Ok.modulus_pos (h : P.Ok w) : 0 < P.curve.p := Nat.zero_lt_of_lt h.1.1

theorem pointAdd_ok (hP : P.Ok w) (hQ : Q.Ok w) (h : P.curve = Q.curve) : (pointAdd P Q).Ok w :=
  ⟨(pointAdd_curve h).symm ▸ hP.1, pointAdd_reduced hP.modulus_pos hP.2 hQ.2⟩

theorem ident_ok (h : e.Ok w) : (PointVal.ident e).Ok w := ⟨h, trivial⟩

theorem addRepeatedly_ok {acc : PointVal} (n : Nat) (hP : P.Ok w) (hacc : acc.Ok w)
    (h : acc.curve = P.curve) : (addRepeatedly P n acc).Ok w := by
  induction n generalizing acc with
  | zero => exact hacc
  | succ n ih => exact ih (pointAdd_ok hacc hP h) ((pointAdd_curve h).trans h)

theorem mulNaive_ok {k : Nat} (hP : P.Ok w) : (mulNaive P k).Ok w := by
  unfold mulNaive
  split
  · exact ident_ok hP.1
  · exact addRepeatedly_ok _ hP hP rfl

/-- One round of R213 keeps result and current point legal and on one curve. -/
theorem doubleAndAdd_ok {r c : PointVal} (fuel k : Nat) (hr : r.Ok w) (hc : c.Ok w)
    (h : r.curve = c.curve) : (doubleAndAdd fuel r c k).Ok w := by
  induction fuel generalizing r c k with
  | zero => exact hr
  | succ fuel ih =>
    have hcc : (pointAdd c c).curve = c.curve := pointAdd_curve rfl
    unfold doubleAndAdd
    split_ifs
    · exact hr
    · exact ih _ (pointAdd_ok hr hc h) (pointAdd_ok hc hc rfl)
        ((pointAdd_curve h).trans (h.trans hcc.symm))
    · exact ih _ hr (pointAdd_ok hc hc rfl) (h.trans hcc.symm)

theorem mulBinary_ok {k : Nat} (hP : P.Ok w) : (mulBinary P k).Ok w :=
  doubleAndAdd_ok _ _ (ident_ok hP.1) hP rfl

end PointValues

/-! ## State updates keep the invariant -/

section Updates
variable {s : State}

/-- R38: reset is a legal state, for all legal parameters. -/
theorem State.resetOf_inv {cfg : Config} (h : cfg.Legal) : (State.resetOf cfg).Inv where
  legal := h
  countF := List.length_replicate
  countC := List.length_replicate
  countP := List.length_replicate
  countS := List.length_replicate
  felts _ hv := nomatch List.eq_of_mem_replicate hv
  curves _ hv := nomatch List.eq_of_mem_replicate hv
  points _ hv := nomatch List.eq_of_mem_replicate hv
  scalars _ hv := nomatch List.eq_of_mem_replicate hv
  bufferA := Nat.two_pow_pos _
  bufferB := Nat.two_pow_pos _
  status := .inl ⟨rfl, rfl, rfl⟩
  quiet _ := rfl

namespace State.Inv

theorem resetDevice (h : s.Inv) : (resetDevice s).Inv :=
  { State.resetOf_inv h.legal with quiet := fun _ => rfl }

/-- R280: a reset input just asserted finds nothing in flight. -/
theorem assertReset (h : s.Inv) : (assertReset s).Inv :=
  { h.resetDevice with quiet := fun _ => rfl }

theorem releaseReset (h : s.Inv) : (releaseReset s).Inv := by
  unfold Machine.releaseReset
  split
  · exact { h.resetDevice with quiet := fun _ => rfl }
  · exact h

theorem popEvent (h : s.Inv) : (popEvent s).Inv := { h with }

theorem respond (h : s.Inv) (r : Response) : (respond s r).Inv := { h with }

theorem setT (h : s.Inv) (b : Bool) : (s.setT b).Inv := { h with }

theorem dropWrite (h : s.Inv) : (dropWrite s).Inv := { h with }

theorem writeStatus (h : s.Inv) (v : Word) : (writeStatus s v).Inv := { h with }

theorem setDataA (h : s.Inv) {v : Nat} (hv : v < 2 ^ s.cfg.w) : (s.setDataA v).Inv :=
  { h with bufferA := hv }

theorem setDataB (h : s.Inv) {v : Nat} (hv : v < 2 ^ s.cfg.w) : (s.setDataB v).Inv :=
  { h with bufferB := hv }

theorem writeF (h : s.Inv) (i : RegIdx) {v : Felt} (hv : v.Ok s.cfg.w) : (s.writeF i v).Inv :=
  { h with
    countF := writeReg_length.trans h.countF
    felts := fun u hu => (mem_writeReg hu).elim (fun e => e ▸ hv) (h.felts u) }

theorem writeC (h : s.Inv) (i : RegIdx) {e : CurveRec} (he : e.Ok s.cfg.w) : (s.writeC i e).Inv :=
  { h with
    countC := writeReg_length.trans h.countC
    curves := fun u hu => (mem_writeReg hu).elim (fun e => e ▸ he) (h.curves u) }

theorem writeP (h : s.Inv) (i : RegIdx) {v : PointVal} (hv : v.Ok s.cfg.w) : (s.writeP i v).Inv :=
  { h with
    countP := writeReg_length.trans h.countP
    points := fun u hu => (mem_writeReg hu).elim (fun e => e ▸ hv) (h.points u) }

theorem writeS (h : s.Inv) (i : RegIdx) {k : Nat} (hk : k < 2 ^ s.cfg.w) : (s.writeS i k).Inv :=
  { h with
    countS := writeReg_length.trans h.countS
    scalars := fun u hu => (mem_writeReg hu).elim (fun e => e ▸ hk) (h.scalars u) }

/-- R70 Issue: a word goes in flight only while the reset input is released. -/
theorem issue (h : s.Inv) (v : Word) (hr : s.resetLine = false) : (issue v s).Inv :=
  { h with
    status := .inl ⟨rfl, rfl, rfl⟩
    quiet := fun hq => absurd (hr.symm.trans hq) (by decide) }

/-- R34: ERR and ECODE are left as they are, so that each legal combination becomes one with DONE = 1. -/
theorem commitDone (h : s.Inv) : (commitDone s).Inv :=
  { h with
    status := by
      rcases h.status with ⟨-, herr, hcode⟩ | ⟨-, -, herr, hcode⟩ | ⟨-, -, herr, hcode⟩
      · exact .inr (.inl ⟨rfl, rfl, herr, hcode⟩)
      · exact .inr (.inl ⟨rfl, rfl, herr, hcode⟩)
      · exact .inr (.inr ⟨rfl, rfl, herr, hcode⟩)
    quiet := fun _ => rfl }

theorem errorEntry (h : s.Inv) (e : ErrorKind) : (errorEntry e s).Inv :=
  { h with
    status := .inr (.inr ⟨rfl, rfl, rfl, e, rfl⟩)
    quiet := fun _ => rfl }

end State.Inv

end Updates

/-! ## Commands keep the invariant -/

section Commands
variable {s : State} {i : RegIdx}

theorem State.Inv.felt_ok (h : s.Inv) {v : Felt} (hv : s.readF i = .ok v) : v.Ok s.cfg.w :=
  h.felts v (readReg_ok_mem hv)

theorem State.Inv.curve_ok (h : s.Inv) {e : CurveRec} (he : s.readC i = .ok e) : e.Ok s.cfg.w :=
  h.curves e (readReg_ok_mem he)

theorem State.Inv.point_ok (h : s.Inv) {v : PointVal} (hv : s.readP i = .ok v) : v.Ok s.cfg.w :=
  h.points v (readReg_ok_mem hv)

theorem State.Inv.scalar_lt (h : s.Inv) {k : Nat} (hk : s.readS i = .ok k) : k < 2 ^ s.cfg.w :=
  h.scalars k (readReg_ok_mem hk)

/-- R178, R179: the coordinates of a legal point are legal elements over its curve's prime. -/
theorem coordinates_ok {w : Nat} {p : PointVal} {x y : Felt} (hp : p.Ok w)
    (h : coordinates p = .ok (x, y)) : x.Ok w ∧ y.Ok w := by
  obtain ⟨e, a, b, rfl, rfl, rfl⟩ := coordinates_eq_ok.1 h
  obtain ⟨⟨h2, hlt, -, -⟩, ha, hb⟩ := hp
  exact ⟨⟨h2, hlt, ha⟩, ⟨h2, hlt, hb⟩⟩

/-- Every command is a commit whose state, where there is no error, has the invariant. -/
theorem exec_eq_commit_inv (hs : s.Inv) (i : Instr) :
    ∃ r, exec i s = commit s r ∧ ∀ s', r = .ok s' → s'.Inv := by
  cases i with
  | nop => exact ⟨.ok s, rfl, fun s' h => by cases h; exact hs⟩
  | fnew rd =>
    refine ⟨_, rfl, fun s' h => ?_⟩
    obtain ⟨v, hv, h⟩ := bind_eq_ok.1 h
    obtain ⟨h2, hlt, rfl⟩ := newFelt_eq_ok.1 hv
    cases h; exact hs.writeF rd ⟨h2, hs.bufferB, hlt⟩
  | frd rs1 =>
    refine ⟨_, rfl, fun s' h => ?_⟩
    obtain ⟨v, hv, h⟩ := bind_eq_ok.1 h
    obtain ⟨-, hprime, hinner⟩ := hs.felt_ok hv
    cases h; exact (hs.setDataA (hinner.trans hprime)).setDataB hprime
  | fadd rd rs1 rs2 =>
    refine ⟨_, rfl, fun s' h => ?_⟩
    obtain ⟨⟨a, b⟩, hab, h⟩ := bind_eq_ok.1 h
    cases h; exact hs.writeF rd (fAdd_ok (hs.felt_ok (twoFelts_eq_ok.1 hab).1))
  | fsub rd rs1 rs2 =>
    refine ⟨_, rfl, fun s' h => ?_⟩
    obtain ⟨⟨a, b⟩, hab, h⟩ := bind_eq_ok.1 h
    cases h; exact hs.writeF rd (fSub_ok (hs.felt_ok (twoFelts_eq_ok.1 hab).1))
  | fmul rd rs1 rs2 =>
    refine ⟨_, rfl, fun s' h => ?_⟩
    obtain ⟨⟨a, b⟩, hab, h⟩ := bind_eq_ok.1 h
    cases h; exact hs.writeF rd (fMul_ok (hs.felt_ok (twoFelts_eq_ok.1 hab).1))
  | fdiv rd rs1 rs2 =>
    refine ⟨_, rfl, fun s' h => ?_⟩
    obtain ⟨⟨a, b⟩, hab, h⟩ := bind_eq_ok.1 h
    obtain ⟨q, hq, h⟩ := bind_eq_ok.1 h
    cases h; exact hs.writeF rd (fDiv_ok (hs.felt_ok (twoFelts_eq_ok.1 hab).1) hq)
  | finv rd rs1 =>
    refine ⟨_, rfl, fun s' h => ?_⟩
    obtain ⟨a, ha, h⟩ := bind_eq_ok.1 h
    obtain ⟨q, hq, h⟩ := bind_eq_ok.1 h
    cases h; exact hs.writeF rd (fInv_ok (hs.felt_ok ha) hq)
  | fpowu rd rs1 rs2 =>
    refine ⟨_, rfl, fun s' h => ?_⟩
    obtain ⟨⟨x, e⟩, hxe, h⟩ := bind_eq_ok.1 h
    cases h; exact hs.writeF rd (fPowU_ok (hs.felt_ok (feltAndUnsigned_eq_ok.1 hxe).1))
  | fpows rd rs1 rs2 =>
    refine ⟨_, rfl, fun s' h => ?_⟩
    obtain ⟨⟨x, e⟩, hxe, h⟩ := bind_eq_ok.1 h
    obtain ⟨q, hq, h⟩ := bind_eq_ok.1 h
    cases h; exact hs.writeF rd (fPowS_ok (hs.felt_ok (feltAndSigned_eq_ok.1 hxe).1) hq)
  | feq rs1 rs2 =>
    refine ⟨_, rfl, fun s' h => ?_⟩
    obtain ⟨ab, -, h⟩ := bind_eq_ok.1 h
    cases h; exact hs.setT _
  | sld rd => exact ⟨.ok (s.writeS rd s.dataA), rfl, fun s' h => by
      cases h; exact hs.writeS rd hs.bufferA⟩
  | sst rs1 =>
    refine ⟨_, rfl, fun s' h => ?_⟩
    obtain ⟨k, hk, h⟩ := bind_eq_ok.1 h
    cases h; exact hs.setDataA (hs.scalar_lt hk)
  | cnew rd rs1 rs2 =>
    refine ⟨_, rfl, fun s' h => ?_⟩
    obtain ⟨⟨a, b⟩, hab, h⟩ := bind_eq_ok.1 h
    obtain ⟨ha, hb, hp⟩ := twoFelts_eq_ok.1 hab
    obtain ⟨h2, hlt, hares⟩ := hs.felt_ok ha
    cases h; exact hs.writeC rd ⟨h2, hlt, hares, hp ▸ (hs.felt_ok hb).inner_lt⟩
  | pnew rd rs1 rs2 rs3 =>
    refine ⟨_, rfl, fun s' h => ?_⟩
    obtain ⟨⟨e, x, y⟩, hexy, h⟩ := bind_eq_ok.1 h
    obtain ⟨he, hx, hy⟩ := curveAndCoordinates_eq_ok.1 hexy
    dsimp only at h
    split at h
    · cases h; exact hs.writeP rd ⟨hs.curve_ok he, (hs.felt_ok hx).inner_lt, (hs.felt_ok hy).inner_lt⟩
    · cases h
  | pid rd rs1 =>
    refine ⟨_, rfl, fun s' h => ?_⟩
    obtain ⟨e, he, h⟩ := bind_eq_ok.1 h
    cases h; exact hs.writeP rd (ident_ok (hs.curve_ok he))
  | padd rd rs1 rs2 =>
    refine ⟨_, rfl, fun s' h => ?_⟩
    obtain ⟨⟨P, Q⟩, hPQ, h⟩ := bind_eq_ok.1 h
    obtain ⟨hP, hQ, hcurve⟩ := twoPoints_eq_ok.1 hPQ
    cases h; exact hs.writeP rd (pointAdd_ok (hs.point_ok hP) (hs.point_ok hQ) hcurve)
  | peq rs1 rs2 =>
    refine ⟨_, rfl, fun s' h => ?_⟩
    obtain ⟨PQ, -, h⟩ := bind_eq_ok.1 h
    cases h; exact hs.setT _
  | pgetx rd rs1 =>
    refine ⟨_, rfl, fun s' h => ?_⟩
    obtain ⟨P, hP, h⟩ := bind_eq_ok.1 h
    obtain ⟨⟨x, y⟩, hxy, h⟩ := bind_eq_ok.1 h
    cases h; exact hs.writeF rd (coordinates_ok (hs.point_ok hP) hxy).1
  | pgety rd rs1 =>
    refine ⟨_, rfl, fun s' h => ?_⟩
    obtain ⟨P, hP, h⟩ := bind_eq_ok.1 h
    obtain ⟨⟨x, y⟩, hxy, h⟩ := bind_eq_ok.1 h
    cases h; exact hs.writeF rd (coordinates_ok (hs.point_ok hP) hxy).2
  | pmuln rd rs1 rs2 =>
    refine ⟨_, rfl, fun s' h => ?_⟩
    obtain ⟨⟨P, k⟩, hPk, h⟩ := bind_eq_ok.1 h
    cases h; exact hs.writeP rd (mulNaive_ok (hs.point_ok (pointAndScalar_eq_ok.1 hPk).1))
  | pmulb rd rs1 rs2 =>
    refine ⟨_, rfl, fun s' h => ?_⟩
    obtain ⟨⟨P, k⟩, hPk, h⟩ := bind_eq_ok.1 h
    cases h; exact hs.writeP rd (mulBinary_ok (hs.point_ok (pointAndScalar_eq_ok.1 hPk).1))

theorem exec_keeps_inv {i : Instr} {t : State} (hs : s.Inv) (h : exec i s = .next t) : t.Inv := by
  obtain ⟨r, hr, hok⟩ := exec_eq_commit_inv hs i
  rcases commit_cases (hr ▸ h) with ⟨e, -, rfl⟩ | ⟨s', hs', rfl⟩
  · exact hs.errorEntry e
  · exact (hok s' hs').commitDone

end Commands

/-! ## Events keep the invariant -/

section Events
variable {s t : State}

theorem engineTurn_keeps_inv (hs : s.Inv) (h : engineTurn s = .next t) : t.Inv := by
  rcases engineTurn_cases s with ⟨-, he⟩ | ⟨-, -, he⟩ | ⟨-, i, -, he⟩
  · cases he.symm.trans h; exact hs
  · cases he.symm.trans h; exact hs.errorEntry _
  · exact exec_keeps_inv hs (he.symm.trans h)

/-- R36, R69: what an accepted write does, with the reset input released. -/
theorem writeWindow_keeps_inv (hs : s.Inv) (hr : s.resetLine = false) (off : Nat) (v : Word) :
    (writeWindow s off v).Inv := by
  rcases writeWindow_cases s off v with
    he | he | he | ⟨-, he⟩ | ⟨-, he⟩ | ⟨-, i, hi, he⟩ | ⟨-, i, hi, he⟩ <;> rw [he]
  · exact hs
  · exact hs.resetDevice
  · exact hs.writeStatus v
  · exact hs.dropWrite
  · exact hs.issue v hr
  · exact hs.setDataA (setWord_lt v hs.bufferA (word_end_le hi))
  · exact hs.setDataB (setWord_lt v hs.bufferB (word_end_le hi))

theorem hostRead_keeps_inv {addr bytes : Nat} (hs : s.Inv) (h : hostRead addr bytes s = .next t) :
    t.Inv := by
  rcases hostRead_cases addr bytes s with ⟨-, he⟩ | ⟨-, r, he⟩
  · cases he.symm.trans h
  · cases he.symm.trans h; exact hs.respond r

theorem hostWrite_keeps_inv {addr bytes : Nat} {v : Word} (hs : s.Inv)
    (h : hostWrite addr bytes v s = .next t) : t.Inv := by
  rcases hostWrite_cases addr bytes v s with ⟨-, he⟩ | ⟨-, -, r, he⟩ | ⟨-, hr, -, he⟩
  · cases he.symm.trans h
  · cases he.symm.trans h; exact hs.respond r
  · cases he.symm.trans h; exact (writeWindow_keeps_inv hs hr _ v).respond _

theorem runEvent_keeps_inv {e : Event} (hs : s.Inv) (h : runEvent e s = .next t) : t.Inv := by
  cases e with
  | read addr bytes => exact hostRead_keeps_inv hs h
  | write addr bytes v => exact hostWrite_keeps_inv hs h
  | engine => exact engineTurn_keeps_inv hs h
  | assertReset => cases h; exact hs.assertReset
  | releaseReset => cases h; exact hs.releaseReset

end Events

/-- Settles O24: taking the event from the agenda keeps the invariant, and so does running it. -/
theorem stepKeepsInvariant : Obligations.StepKeepsInvariant :=
  fun _ _ hs h => runEvent_keeps_inv hs.popEvent h

end Sys2Proof.Machine

/-! PROOF. The residues of 40_field.md as elements of `ZMod p`, the curve of a record as a Weierstrass curve
over it, and R181: over a prime modulus the group law and both scalar multiplications stay on the curve. -/

namespace Sys2Proof.Machine

/-! ## The field functions in `ZMod p` (R120 to R126) -/

section Residues
variable {p a b : Nat}

@[simp] theorem cast_reduce (v : Nat) : ((reduce v p : Nat) : ZMod p) = v := ZMod.natCast_mod v p

@[simp] theorem cast_addMod : ((addMod p a b : Nat) : ZMod p) = a + b := by simp [addMod]

@[simp] theorem cast_mulMod : ((mulMod p a b : Nat) : ZMod p) = a * b := by simp [mulMod]

theorem cast_subMod (ha : a < p) (hb : b < p) : ((subMod p a b : Nat) : ZMod p) = a - b := by
  have h := congrArg (Int.cast : Int → ZMod p) (subMod_eq_emod ha hb)
  simpa using h

/-- Residues are equal when they are in `ZMod p`. -/
theorem cast_inj_of_lt (ha : a < p) (hb : b < p) : (a : ZMod p) = b ↔ a = b := by
  rw [ZMod.natCast_eq_natCast_iff', Nat.mod_eq_of_lt ha, Nat.mod_eq_of_lt hb]

variable [Fact p.Prime]

/-- R125: the power `b^(p-2)` is the inverse, by Fermat's theorem. -/
theorem cast_invMod (hb : (b : ZMod p) ≠ 0) : ((invMod p b : Nat) : ZMod p) = (b : ZMod p)⁻¹ := by
  have hp : p - 2 + 1 = p - 1 := by have := (Fact.out : p.Prime).two_le; omega
  rw [invMod_eq, ZMod.natCast_mod, Nat.cast_pow]
  exact eq_inv_of_mul_eq_one_left (by rw [← pow_succ, hp, ZMod.pow_card_sub_one_eq_one hb])

theorem cast_divMod (hb : (b : ZMod p) ≠ 0) : ((divMod p a b : Nat) : ZMod p) = a / b := by
  rw [divMod, cast_mulMod, cast_invMod hb, div_eq_mul_inv]

end Residues

/-! ## The curve of a record (R22, R171) -/

/-- R22: the curve `y^2 = x^3 + a*x + b` over the residues modulo `p`. -/
def CurveRec.weierstrass (e : CurveRec) : WeierstrassCurve.Affine (ZMod e.p) := ⟨0, 0, 0, e.a, e.b⟩

section Curve
variable {e : CurveRec} {x y x1 y1 x2 y2 : Nat}

@[simp] theorem weierstrass_negY (u v : ZMod e.p) : e.weierstrass.negY u v = -v := by
  simp [CurveRec.weierstrass, WeierstrassCurve.Affine.negY]

@[simp] theorem weierstrass_addX (u v l : ZMod e.p) : e.weierstrass.addX u v l = l ^ 2 - u - v := by
  simp [CurveRec.weierstrass, WeierstrassCurve.Affine.addX]

@[simp] theorem weierstrass_addY (u v w l : ZMod e.p) :
    e.weierstrass.addY u v w l = l * (u - e.weierstrass.addX u v l) - w := by
  rw [WeierstrassCurve.Affine.addY, weierstrass_negY, WeierstrassCurve.Affine.negAddY]
  ring

/-- R171: the on-curve predicate is the equation of the curve in `ZMod p`. -/
theorem onCurve_iff_equation : onCurve e x y = true ↔ e.weierstrass.Equation x y := by
  rw [onCurve, decide_eq_true_iff, reduce, reduce, ← ZMod.natCast_eq_natCast_iff',
    WeierstrassCurve.Affine.equation_iff]
  simp [CurveRec.weierstrass, pow_succ]

/-! ## Tangent and chord (R175) -/

/-- R175: the third coordinate is the one of the curve's addition. -/
theorem cast_thirdY {s x3 : Nat} (hx1 : x1 < e.p) (hy1 : y1 < e.p) (hx3 : x3 < e.p) :
    ((thirdY e.p s x1 y1 x3 : Nat) : ZMod e.p) = s * (x1 - x3) - y1 := by
  rw [thirdY, cast_subMod (mulMod_lt (Nat.zero_lt_of_lt hx1)) hy1, cast_mulMod, cast_subMod hx1 hx3]

variable [Fact e.p.Prime]

/-- R175 rule 4: a point with a tangent that is not vertical is not its own negative. -/
theorem cast_ne_neg (hy : reduce (y1 + y1) e.p ≠ 0) : (y1 : ZMod e.p) ≠ -y1 := fun h => by
  have h0 : ((y1 + y1 : Nat) : ZMod e.p) = 0 := by
    rw [Nat.cast_add]
    exact eq_neg_iff_add_eq_zero.1 h
  exact hy (Nat.mod_eq_zero_of_dvd ((ZMod.natCast_eq_zero_iff _ _).1 h0))

theorem cast_tangentSlope (hy : (y1 : ZMod e.p) ≠ -y1) :
    ((tangentSlope e x1 y1 : Nat) : ZMod e.p) = e.weierstrass.slope x1 x1 y1 y1 := by
  have hden : ((mulMod e.p 2 y1 : Nat) : ZMod e.p) = y1 - -y1 := by
    rw [cast_mulMod]; push_cast; ring
  have hne : ((mulMod e.p 2 y1 : Nat) : ZMod e.p) ≠ 0 := by rw [hden]; exact sub_ne_zero.2 hy
  rw [tangentSlope, cast_divMod hne, hden,
    WeierstrassCurve.Affine.slope_of_Y_ne rfl (by rwa [weierstrass_negY]), weierstrass_negY]
  simp [CurveRec.weierstrass, sq]

theorem cast_chordSlope (hx1 : x1 < e.p) (hy1 : y1 < e.p) (hx2 : x2 < e.p) (hy2 : y2 < e.p)
    (hx : (x1 : ZMod e.p) ≠ x2) :
    ((chordSlope e x1 y1 x2 y2 : Nat) : ZMod e.p) = e.weierstrass.slope x1 x2 y1 y2 := by
  have hden := cast_subMod hx2 hx1
  have hne : ((subMod e.p x2 x1 : Nat) : ZMod e.p) ≠ 0 := by rw [hden]; exact sub_ne_zero.2 hx.symm
  rw [chordSlope, cast_divMod hne, hden, cast_subMod hy2 hy1,
    WeierstrassCurve.Affine.slope_of_X_ne hx, ← neg_sub, ← neg_sub (x1 : ZMod e.p), neg_div_neg_eq]

/-- R181: doubling stays on the curve. -/
theorem doublePoint_onItsCurve (hx1 : x1 < e.p) (hy1 : y1 < e.p) (h1 : onCurve e x1 y1 = true)
    (hy : reduce (y1 + y1) e.p ≠ 0) : (doublePoint e x1 y1).OnItsCurve := by
  have hpos : 0 < e.p := Nat.zero_lt_of_lt hx1
  have heq := onCurve_iff_equation.1 h1
  have hsum := e.weierstrass.equation_add heq heq fun h =>
    cast_ne_neg hy (h.2.trans (weierstrass_negY _ _))
  rw [← cast_tangentSlope (cast_ne_neg hy), weierstrass_addY, weierstrass_addX] at hsum
  have hx3 : ((subMod e.p (mulMod e.p (tangentSlope e x1 y1) (tangentSlope e x1 y1))
      (mulMod e.p 2 x1) : Nat) : ZMod e.p) = tangentSlope e x1 y1 ^ 2 - x1 - x1 := by
    rw [cast_subMod (mulMod_lt hpos) (mulMod_lt hpos), cast_mulMod, cast_mulMod]
    push_cast
    ring
  refine onCurve_iff_equation.2 ?_
  rw [cast_thirdY hx1 hy1 (subMod_lt (mulMod_lt hpos)), hx3]
  exact hsum

/-- R181: the chord stays on the curve. -/
theorem chordPoint_onItsCurve (hx1 : x1 < e.p) (hy1 : y1 < e.p) (hx2 : x2 < e.p) (hy2 : y2 < e.p)
    (h1 : onCurve e x1 y1 = true) (h2 : onCurve e x2 y2 = true) (hx : x1 ≠ x2) :
    (chordPoint e x1 y1 x2 y2).OnItsCurve := by
  have hpos : 0 < e.p := Nat.zero_lt_of_lt hx1
  have hne : (x1 : ZMod e.p) ≠ x2 := (cast_inj_of_lt hx1 hx2).not.2 hx
  have heq1 := onCurve_iff_equation.1 h1
  have heq2 := onCurve_iff_equation.1 h2
  have hsum := e.weierstrass.equation_add heq1 heq2 (fun h => hne h.1)
  rw [← cast_chordSlope hx1 hy1 hx2 hy2 hne, weierstrass_addY, weierstrass_addX] at hsum
  refine onCurve_iff_equation.2 ?_
  rw [cast_thirdY hx1 hy1 (subMod_lt (subMod_lt (mulMod_lt hpos))),
    cast_subMod (subMod_lt (mulMod_lt hpos)) hx2, cast_subMod (mulMod_lt hpos) hx1, cast_mulMod, ← sq]
  exact hsum

end Curve

/-! ## Sums and multiples of points over a prime (R175, R212, R213) -/

section PointOver
open Claims (PointOver)
variable {e : CurveRec} {P Q : PointVal}

theorem pointOver_ident : PointOver e (.ident e) := ⟨rfl, trivial, trivial⟩

variable (hp : e.p.Prime)
include hp

/-- R181: over a prime modulus the sum of two points of a curve is a point of it. -/
theorem pointAdd_onItsCurve (hP : PointOver e P) (hQ : PointOver e Q) :
    (pointAdd P Q).OnItsCurve := by
  have : Fact e.p.Prime := ⟨hp⟩
  obtain ⟨hPe, hPr, hPc⟩ := hP
  obtain ⟨hQe, hQr, hQc⟩ := hQ
  cases P with
  | ident _ => exact hQc
  | affine e1 x1 y1 =>
    cases Q with
    | ident _ => exact hPc
    | affine e2 x2 y2 =>
      obtain rfl : e1 = e := hPe
      obtain rfl : e2 = e1 := hQe
      simp only [pointAdd]
      split_ifs with hinv hx
      · trivial
      · obtain ⟨hy, hne⟩ : y1 = y2 ∧ reduce (y1 + y2) e2.p ≠ 0 := by simpa [hx] using hinv
        exact doublePoint_onItsCurve hPr.1 hPr.2 hPc (hy ▸ hne)
      · exact chordPoint_onItsCurve hPr.1 hPr.2 hQr.1 hQr.2 hPc hQc hx

theorem pointAdd_pointOver (hP : PointOver e P) (hQ : PointOver e Q) :
    PointOver e (pointAdd P Q) :=
  ⟨(pointAdd_curve (hP.1.trans hQ.1.symm)).trans hP.1,
    pointAdd_reduced (hP.1.symm ▸ hp.pos) hP.2.1 hQ.2.1, pointAdd_onItsCurve hp hP hQ⟩

theorem addRepeatedly_pointOver (n : Nat) {acc : PointVal} (hP : PointOver e P)
    (hacc : PointOver e acc) : PointOver e (addRepeatedly P n acc) := by
  induction n generalizing acc with
  | zero => exact hacc
  | succ n ih => exact ih (pointAdd_pointOver hp hacc hP)

theorem mulNaive_pointOver (k : Nat) (hP : PointOver e P) : PointOver e (mulNaive P k) := by
  unfold mulNaive
  split
  · exact hP.1 ▸ pointOver_ident
  · exact addRepeatedly_pointOver hp _ hP hP

theorem doubleAndAdd_pointOver (fuel k : Nat) {r c : PointVal} (hr : PointOver e r)
    (hc : PointOver e c) : PointOver e (doubleAndAdd fuel r c k) := by
  induction fuel generalizing r c k with
  | zero => exact hr
  | succ fuel ih =>
    have hcc := pointAdd_pointOver hp hc hc
    unfold doubleAndAdd
    split_ifs
    · exact hr
    · exact ih _ (pointAdd_pointOver hp hr hc) hcc
    · exact ih _ hr hcc

theorem mulBinary_pointOver (k : Nat) (hP : PointOver e P) : PointOver e (mulBinary P k) :=
  doubleAndAdd_pointOver hp _ k (hP.1 ▸ pointOver_ident) hP

end PointOver

end Sys2Proof.Machine

/-! PROOF. What a step leaves unchanged: the frame of a Host access, what a reset leaves, and one inversion of
`step`, from which O23, O25, O26 and O30 follow. -/

namespace Sys2Proof.Machine

/-! ## Frames -/

/-- The parameters, the register files and T are the same in both states. -/
structure SameRegisters (s t : State) : Prop where
  cfg : t.cfg = s.cfg
  fregs : t.fregs = s.fregs
  cregs : t.cregs = s.cregs
  pregs : t.pregs = s.pregs
  sregs : t.sregs = s.sregs
  flag : t.t = s.t

/-- The frame of a Host access that is no soft reset: the registers stay and, with a command in flight, so do
the buffers, CMD and BUSY (R37, R69). -/
structure HostFrame (s t : State) : Prop extends SameRegisters s t where
  inFlight : s.busy = true →
    t.dataA = s.dataA ∧ t.dataB = s.dataB ∧ t.cmd = s.cmd ∧ t.busy = true

/-- R38: the state is what reset leaves, whatever the reset input and the last response. -/
def IsResetOf (s t : State) : Prop :=
  ∃ line r, t = { resetDevice s with resetLine := line, response := r }

/-- The events that reset ECC-CORE: a soft reset (R241) and the two edges of the reset input (R280). -/
def Event.Resets (cfg : Config) : Event → Prop
  | .write addr bytes v => addr = cfg.base + 0x004 ∧ bytes = 4 ∧ v.getLsbD 0 = true
  | .assertReset => True
  | .releaseReset => True
  | .read _ _ => False
  | .engine => False

section Frames
variable {s t : State}

theorem SameRegisters.refl (s : State) : SameRegisters s s := ⟨rfl, rfl, rfl, rfl, rfl, rfl⟩

theorem HostFrame.refl (s : State) : HostFrame s s := ⟨.refl s, fun h => ⟨rfl, rfl, rfl, h⟩⟩

theorem HostFrame.respond (h : HostFrame s t) (r : Response) : HostFrame s (respond t r) := { h with }

/-- A frame speaks of nothing that taking the event from the agenda changes. -/
theorem HostFrame.of_popEvent (h : HostFrame (popEvent s) t) : HostFrame s t := { h with }

theorem errorEntry_sameRegisters (e : ErrorKind) (s : State) : SameRegisters s (errorEntry e s) :=
  ⟨rfl, rfl, rfl, rfl, rfl, rfl⟩

/-- A write that changes only what is not in flight: it is dropped while BUSY = 1 (R69). -/
theorem hostFrame_ite_busy (h : SameRegisters s t) :
    HostFrame s (if s.busy then dropWrite s else t) := by
  cases hb : s.busy with
  | true => exact ⟨⟨rfl, rfl, rfl, rfl, rfl, rfl⟩, fun _ => ⟨rfl, rfl, rfl, hb⟩⟩
  | false => exact ⟨h, fun h1 => absurd (hb.symm.trans h1) (by decide)⟩

end Frames

/-! ## Host accesses -/

section HostAccess
variable {s t : State} {off addr bytes : Nat} {v : Word}

theorem windowReg_eq_ctrl {cfg : Config} (h : windowReg cfg off = .ctrl) : off = 0x004 := by
  unfold windowReg at h
  split_ifs at h
  assumption

theorem writeWindow_hostFrame (h : ¬ (off = 0x004 ∧ v.getLsbD 0 = true)) :
    HostFrame s (writeWindow s off v) := by
  unfold writeWindow
  split
  case h_1 => exact .refl s
  case h_2 hreg =>
    rw [writeCtrl, if_neg fun hv => h ⟨windowReg_eq_ctrl hreg, hv⟩]
    exact .refl s
  case h_3 => exact ⟨⟨rfl, rfl, rfl, rfl, rfl, rfl⟩, fun hb => ⟨rfl, rfl, rfl, hb⟩⟩
  case h_4 => exact hostFrame_ite_busy ⟨rfl, rfl, rfl, rfl, rfl, rfl⟩
  case h_5 => exact hostFrame_ite_busy ⟨rfl, rfl, rfl, rfl, rfl, rfl⟩
  case h_6 => exact hostFrame_ite_busy ⟨rfl, rfl, rfl, rfl, rfl, rfl⟩
  case h_7 => exact .refl s

/-- R241: a soft reset gives every state its reset value. -/
theorem writeWindow_softReset (hv : v.getLsbD 0 = true) :
    writeWindow s 0x004 v = resetDevice s := if_pos hv

/-- R62: the accepted access at an address of the window with the offset `off`. -/
theorem acceptedAccess_iff {cfg : Config} (hw : inWindow cfg addr = true) :
    acceptedAccess cfg addr bytes = true ↔
      ∃ off, off < 0x400 ∧ off % 4 = 0 ∧ bytes = 4 ∧ addr = cfg.base + off := by
  unfold inWindow at hw
  unfold acceptedAccess
  simp only [decide_eq_true_iff] at hw ⊢
  constructor
  · rintro ⟨hb, ha⟩
    exact ⟨addr - cfg.base, by omega, ha, hb, by omega⟩
  · rintro ⟨off, -, ha, hb, rfl⟩
    exact ⟨hb, by omega⟩

/-- R62, R67: an aligned 32-bit write inside the window writes the register at its offset. -/
theorem hostWrite_accepted (hr : s.resetLine = false) (h : off < 0x400) (ha : off % 4 = 0) :
    hostWrite (s.cfg.base + off) 4 v s = .next (respond (writeWindow s off v) .writeDone) := by
  have hw : inWindow s.cfg (s.cfg.base + off) = true := decide_eq_true (by omega)
  have hx := (acceptedAccess_iff hw).2 ⟨off, h, ha, rfl, rfl⟩
  unfold hostWrite
  simp [hw, hx, hr]

theorem hostRead_hostFrame (h : hostRead addr bytes s = .next t) : HostFrame s t := by
  rcases hostRead_cases addr bytes s with ⟨-, he⟩ | ⟨-, r, he⟩
  · cases he.symm.trans h
  · cases he.symm.trans h; exact (HostFrame.refl s).respond r

theorem hostWrite_hostFrame (hns : ¬ (Event.write addr bytes v).Resets s.cfg)
    (h : hostWrite addr bytes v s = .next t) : HostFrame s t := by
  rcases hostWrite_cases addr bytes v s with ⟨-, he⟩ | ⟨-, -, r, he⟩ | ⟨hw, -, hx, he⟩
  · cases he.symm.trans h
  · cases he.symm.trans h; exact (HostFrame.refl s).respond r
  · obtain ⟨off, -, -, rfl, rfl⟩ := (acceptedAccess_iff hw).1 hx
    cases he.symm.trans h
    refine (writeWindow_hostFrame fun hs => hns ⟨?_, rfl, hs.2⟩).respond _
    omega

/-- A soft reset, where it is answered at all, resets; while reset is asserted the window does not respond. -/
theorem hostWrite_softReset (hs : (Event.write addr bytes v).Resets s.cfg)
    (h : hostWrite addr bytes v s = .next t) : HostFrame s t ∨ IsResetOf s t := by
  obtain ⟨rfl, rfl, hv⟩ := hs
  rcases hostWrite_cases (s.cfg.base + 0x004) 4 v s with ⟨-, he⟩ | ⟨-, -, r, he⟩ | ⟨-, -, -, he⟩
  · cases he.symm.trans h
  · cases he.symm.trans h; exact .inl ((HostFrame.refl s).respond r)
  · rw [Nat.add_sub_cancel_left, writeWindow_softReset hv] at he
    cases he.symm.trans h; exact .inr ⟨_, _, rfl⟩

end HostAccess

/-! ## Steps -/

section Steps
variable {s t : State}

/-- The reset input's release leaves a state that reset leaves, or, not being asserted, changes nothing. -/
theorem releaseReset_cases (s : State) : releaseReset s = s ∨ IsResetOf s (releaseReset s) := by
  unfold releaseReset
  split
  · exact .inr ⟨_, _, rfl⟩
  · exact .inl rfl

/-- Everything running an event can do to the parameters, the registers and T. -/
theorem runEvent_cases {e : Event} (h : runEvent e s = .next t) :
    SameRegisters s t ∨ (e.Resets s.cfg ∧ IsResetOf s t) ∨
    (e = .engine ∧ s.busy = true ∧ ∃ i, fetch s = some i ∧ exec i s = .next t) := by
  cases e with
  | read addr bytes => exact .inl (hostRead_hostFrame h).toSameRegisters
  | write addr bytes v =>
    by_cases hs : (Event.write addr bytes v).Resets s.cfg
    · rcases hostWrite_softReset hs h with hf | hr
      · exact .inl hf.toSameRegisters
      · exact .inr (.inl ⟨hs, hr⟩)
    · exact .inl (hostWrite_hostFrame hs h).toSameRegisters
  | engine =>
    rcases engineTurn_cases s with ⟨-, he⟩ | ⟨-, -, he⟩ | ⟨hon, i, hi, he⟩
    · cases he.symm.trans h; exact .inl (.refl s)
    · cases he.symm.trans h; exact .inl (errorEntry_sameRegisters _ s)
    · exact .inr (.inr ⟨rfl, (engineEnabled_iff.1 hon).1, i, hi, he.symm.trans h⟩)
  | assertReset => cases h; exact .inr (.inl ⟨trivial, _, _, rfl⟩)
  | releaseReset =>
    cases h
    rcases releaseReset_cases s with hs | hr
    · rw [hs]; exact .inl (.refl s)
    · exact .inr (.inl ⟨trivial, hr⟩)

/-- Everything a step can do to the parameters, the registers and T: nothing, a reset, or the commit of the
command in flight. -/
theorem step_cases (h : step s = .next t) :
    SameRegisters s t ∨ ((nextEvent s).Resets s.cfg ∧ IsResetOf (popEvent s) t) ∨
    (nextEvent s = .engine ∧ s.busy = true ∧
      ∃ i, decode s.cfg s.cmd = some i ∧ exec i (popEvent s) = .next t) := by
  rcases runEvent_cases h with hs | hr | he
  · exact .inl { hs with }
  · exact .inr (.inl hr)
  · exact .inr (.inr he)

theorem IsResetOf.cfg (h : IsResetOf s t) : t.cfg = s.cfg := by obtain ⟨_, _, rfl⟩ := h; rfl

theorem IsResetOf.flag (h : IsResetOf s t) : t.t = false := by obtain ⟨_, _, rfl⟩ := h; rfl

theorem IsResetOf.pregs (h : IsResetOf s t) : t.pregs = List.replicate s.cfg.np none := by
  obtain ⟨_, _, rfl⟩ := h; rfl

end Steps

/-! ## The frame of a command (O29) -/

namespace CommandWrite
variable {i : Instr} {s t : State} {n : Nat}

theorem fregs (h : CommandWrite i s t) (hn : ∀ rd, i.dest = some (.F, rd) → rd.toNat ≠ n) :
    t.fregs[n]? = s.fregs[n]? := by
  cases h with
  | felt rd v hd => exact writeReg_getElem?_ne (hn rd hd)
  | _ => rfl

theorem cregs (h : CommandWrite i s t) (hn : ∀ rd, i.dest = some (.C, rd) → rd.toNat ≠ n) :
    t.cregs[n]? = s.cregs[n]? := by
  cases h with
  | curve rd v hd => exact writeReg_getElem?_ne (hn rd hd)
  | _ => rfl

theorem pregs (h : CommandWrite i s t) (hn : ∀ rd, i.dest = some (.P, rd) → rd.toNat ≠ n) :
    t.pregs[n]? = s.pregs[n]? := by
  cases h with
  | point rd v hd => exact writeReg_getElem?_ne (hn rd hd)
  | _ => rfl

theorem sregs (h : CommandWrite i s t) (hn : ∀ rd, i.dest = some (.S, rd) → rd.toNat ≠ n) :
    t.sregs[n]? = s.sregs[n]? := by
  cases h with
  | scalar rd v hd => exact writeReg_getElem?_ne (hn rd hd)
  | _ => rfl

theorem dataA (h : CommandWrite i s t) (hn : ∀ rs1, i ≠ .frd rs1 ∧ i ≠ .sst rs1) :
    t.dataA = s.dataA := by
  cases h with
  | buffers rs1 a b hi => exact absurd hi (hn rs1).1
  | bufferA rs1 a hi => exact absurd hi (hn rs1).2
  | _ => rfl

theorem dataB (h : CommandWrite i s t) (hn : ∀ rs1, i ≠ .frd rs1) : t.dataB = s.dataB := by
  cases h with
  | buffers rs1 a b hi => exact absurd hi (hn rs1)
  | _ => rfl

theorem flag_or (h : CommandWrite i s t) :
    t.t = s.t ∨ ∃ rs1 rs2, i = .feq rs1 rs2 ∨ i = .peq rs1 rs2 := by
  cases h with
  | flag b hi => exact .inr hi
  | _ => exact .inl rfl

/-- What no command writes: CMD, STATUS before the commit, the parameters and the edges of ECC-CORE. -/
theorem frame (h : CommandWrite i s t) :
    t.cmd = s.cmd ∧ t.err = s.err ∧ t.ovr = s.ovr ∧ t.cfg = s.cfg ∧ t.resetLine = s.resetLine ∧
    t.agenda = s.agenda ∧ t.response = s.response := by
  cases h <;> exact ⟨rfl, rfl, rfl, rfl, rfl, rfl, rfl⟩

end CommandWrite

/-- Settles O29: an error entry changes STATUS alone, and a command without error makes its one write. -/
theorem commandsWriteOnlyTheirDestination : Obligations.CommandsWriteOnlyTheirDestination := by
  intro i s t h
  rcases exec_cases h with ⟨e, rfl⟩ | ⟨s', hw, rfl⟩
  · exact ⟨fun _ _ => rfl, fun _ _ => rfl, fun _ _ => rfl, fun _ _ => rfl, fun _ => rfl, fun _ => rfl,
      fun _ => rfl, rfl, rfl, rfl, rfl, rfl, rfl⟩
  · obtain ⟨hcmd, -, hovr, hcfg, hline, hagenda, hresp⟩ := hw.frame
    refine ⟨fun _ => hw.fregs, fun _ => hw.cregs, fun _ => hw.pregs, fun _ => hw.sregs, hw.dataA,
      hw.dataB, fun hi => ?_, hcmd, hovr, hcfg, hline, hagenda, hresp⟩
    rcases hw.flag_or with ht | ⟨rs1, rs2, hfeq | hpeq⟩
    · exact ht
    · exact absurd hfeq (hi rs1 rs2).1
    · exact absurd hpeq (hi rs1 rs2).2

/-! ## Whole-machine rules (O23, O26, O30) -/

section Commands
variable {i : Instr} {s t : State}

theorem exec_cfg (h : exec i s = .next t) : t.cfg = s.cfg := by
  obtain ⟨-, -, -, -, -, -, -, -, -, hcfg, -⟩ := commandsWriteOnlyTheirDestination i s t h
  exact hcfg

/-- R31: a command that changes T is FEQ or PEQ, and it commits without error. -/
theorem exec_changes_flag (h : exec i s = .next t) (ht : t.t ≠ s.t) :
    t.err = s.err ∧ ∃ rs1 rs2, i = .feq rs1 rs2 ∨ i = .peq rs1 rs2 := by
  rcases exec_cases h with ⟨e, rfl⟩ | ⟨s', hw, rfl⟩
  · exact absurd rfl ht
  · obtain ⟨-, herr, -⟩ := hw.frame
    exact ⟨herr, hw.flag_or.resolve_left ht⟩

end Commands

/-- Settles O26: no event and no command writes the parameters. -/
theorem stepKeepsParameters : Obligations.StepKeepsParameters := by
  intro s t h
  rcases step_cases h with hs | ⟨-, hr⟩ | ⟨-, -, i, -, hx⟩
  · exact hs.cfg
  · exact hr.cfg
  · exact exec_cfg (s := popEvent s) hx

/-- Settles O30: of the three things a step can do, only a reset and a command change T. -/
theorem testFlagChangesOnlyByEqualityOrReset :
    Obligations.TestFlagChangesOnlyByEqualityOrReset := by
  intro s t h ht
  rcases step_cases h with hs | ⟨he, hr⟩ | ⟨he, hb, i, hi, hx⟩
  · exact absurd hs.flag ht
  · refine .inr ⟨hr.flag, ?_⟩
    cases hev : nextEvent s with
    | read addr bytes => rw [hev] at he; cases he
    | write addr bytes v =>
      rw [hev] at he
      obtain ⟨rfl, rfl, hv⟩ := he
      exact .inr (.inr ⟨v, rfl, hv⟩)
    | engine => rw [hev] at he; cases he
    | assertReset => exact .inl rfl
    | releaseReset => exact .inr (.inl rfl)
  · obtain ⟨herr, rs1, rs2, hcmd⟩ := exec_changes_flag hx ht
    refine .inl ⟨rs1, rs2, hb, he, herr, ?_⟩
    rcases hcmd with rfl | rfl
    · exact .inl hi
    · exact .inr hi

/-- Settles O23: a Host access that is no soft reset has the frame of a Host access. -/
theorem inFlightOperandsStayFixed : Obligations.InFlightOperandsStayFixed := by
  intro s t addr bytes v hb he h
  have hf : HostFrame s t := by
    unfold step at h
    rcases he with he | ⟨he, hns⟩
    · rw [he] at h
      exact (hostRead_hostFrame h).of_popEvent
    · rw [he] at h
      exact (hostWrite_hostFrame (s := popEvent s) hns h).of_popEvent
  obtain ⟨hA, hB, hcmd, hbusy⟩ := hf.inFlight hb
  exact ⟨hf.fregs, hf.cregs, hf.pregs, hf.sregs, hA, hB, hf.flag, hcmd, hbusy⟩

end Sys2Proof.Machine

/-! PROOF. O25: every step keeps the points over prime moduli on their curves. -/

namespace Sys2Proof.Machine

/-- Where the value of a new point comes from: a validated pair of coordinates, the Identity, or the sum or a
multiple of points in registers (R172, R173, R176, R214, R215). -/
inductive PointResult (s : State) : PointVal → Prop
  | new (e : CurveRec) (x y : Nat) (h : onCurve e x y = true) : PointResult s (.affine e x y)
  | ident (e : CurveRec) : PointResult s (.ident e)
  | sum (P Q : PointVal) (hP : some P ∈ s.pregs) (hQ : some Q ∈ s.pregs) (h : P.curve = Q.curve) :
      PointResult s (pointAdd P Q)
  | naive (P : PointVal) (k : Nat) (hP : some P ∈ s.pregs) : PointResult s (mulNaive P k)
  | binary (P : PointVal) (k : Nat) (hP : some P ∈ s.pregs) : PointResult s (mulBinary P k)

section Points
variable {s t : State} {i : Instr} {r : Except ErrorKind State}

/-- A command with no point destination leaves file P alone. -/
theorem exec_pregs_of_dest (h : exec i s = .next t) (hd : ∀ rd, i.dest ≠ some (.P, rd)) :
    t.pregs = s.pregs := by
  obtain ⟨-, -, hP, -⟩ := commandsWriteOnlyTheirDestination i s t h
  exact List.ext_getElem? fun n => hP n fun rd hrd => absurd hrd (hd rd)

/-- A commit whose command can only write a `PointResult` to a point register writes one, or nothing. -/
theorem commit_pregs (h : commit s r = .next t)
    (hr : ∀ s', r = .ok s' → ∃ rd v, PointResult s v ∧ s' = s.writeP rd v) :
    t.pregs = s.pregs ∨ ∃ rd v, PointResult s v ∧ t.pregs = writeReg s.pregs rd v := by
  rcases commit_cases h with ⟨e, -, rfl⟩ | ⟨s', hs', rfl⟩
  · exact .inl rfl
  · obtain ⟨rd, v, hv, rfl⟩ := hr s' hs'
    exact .inr ⟨rd, v, hv, rfl⟩

/-- Everything a command can do to file P. -/
theorem exec_pregs_cases (h : exec i s = .next t) :
    t.pregs = s.pregs ∨ ∃ rd v, PointResult s v ∧ t.pregs = writeReg s.pregs rd v := by
  cases i with
  | pnew rd rs1 rs2 rs3 =>
    refine commit_pregs h fun s' h => ?_
    obtain ⟨⟨e, x, y⟩, -, h⟩ := bind_eq_ok.1 h
    dsimp only at h
    split at h
    case isTrue hon => cases h; exact ⟨rd, _, .new e x y hon, rfl⟩
    case isFalse => cases h
  | pid rd rs1 =>
    refine commit_pregs h fun s' h => ?_
    obtain ⟨e, -, h⟩ := bind_eq_ok.1 h
    cases h; exact ⟨rd, _, .ident e, rfl⟩
  | padd rd rs1 rs2 =>
    refine commit_pregs h fun s' h => ?_
    obtain ⟨⟨P, Q⟩, hPQ, h⟩ := bind_eq_ok.1 h
    obtain ⟨hP, hQ, hcurve⟩ := twoPoints_eq_ok.1 hPQ
    cases h; exact ⟨rd, _, .sum P Q (readReg_ok_mem hP) (readReg_ok_mem hQ) hcurve, rfl⟩
  | pmuln rd rs1 rs2 =>
    refine commit_pregs h fun s' h => ?_
    obtain ⟨⟨P, k⟩, hPk, h⟩ := bind_eq_ok.1 h
    cases h; exact ⟨rd, _, .naive P k (readReg_ok_mem (pointAndScalar_eq_ok.1 hPk).1), rfl⟩
  | pmulb rd rs1 rs2 =>
    refine commit_pregs h fun s' h => ?_
    obtain ⟨⟨P, k⟩, hPk, h⟩ := bind_eq_ok.1 h
    cases h; exact ⟨rd, _, .binary P k (readReg_ok_mem (pointAndScalar_eq_ok.1 hPk).1), rfl⟩
  | _ => exact .inl (exec_pregs_of_dest h nofun)

/-- A point register over a prime modulus holds a point of its curve. -/
theorem pointOver_of_mem (hs : s.Inv) (hon : s.PointsOnCurve) {P : PointVal} (hP : some P ∈ s.pregs)
    (hp : P.curve.p.Prime) : Claims.PointOver P.curve P :=
  ⟨rfl, (hs.points P hP).2, hon P hP hp⟩

/-- R181: what a command writes to a point register is on its curve, where the modulus is prime. -/
theorem PointResult.onItsCurve {v : PointVal} (hs : s.Inv) (hon : s.PointsOnCurve)
    (h : PointResult s v) (hp : v.curve.p.Prime) : v.OnItsCurve := by
  cases h with
  | new e x y hxy => exact hxy
  | ident e => trivial
  | sum P Q hP hQ hcurve =>
    rw [pointAdd_curve hcurve] at hp
    have hQo := pointOver_of_mem hs hon hQ (hcurve ▸ hp)
    exact pointAdd_onItsCurve hp (pointOver_of_mem hs hon hP hp) (hcurve ▸ hQo)
  | naive P k hP =>
    rw [mulNaive_curve] at hp
    exact (mulNaive_pointOver hp k (pointOver_of_mem hs hon hP hp)).2.2
  | binary P k hP =>
    rw [mulBinary_curve] at hp
    exact (mulBinary_pointOver hp k (pointOver_of_mem hs hon hP hp)).2.2

/-- The rule speaks of file P alone. -/
theorem State.PointsOnCurve.of_pregs (hon : s.PointsOnCurve) (h : t.pregs = s.pregs) :
    t.PointsOnCurve := fun v hv => hon v (h ▸ hv)

/-- R38: no register of file P is valid after reset. -/
theorem pointsOnCurve_of_reset {n : Nat} (h : t.pregs = List.replicate n none) :
    t.PointsOnCurve := by
  intro v hv
  rw [h] at hv
  cases List.eq_of_mem_replicate hv

theorem exec_keeps_pointsOnCurve (hs : s.Inv) (hon : s.PointsOnCurve) (h : exec i s = .next t) :
    t.PointsOnCurve := by
  rcases exec_pregs_cases h with heq | ⟨rd, v, hv, heq⟩
  · exact hon.of_pregs heq
  · intro u hu hp
    rcases mem_writeReg (heq ▸ hu) with rfl | hu
    · exact hv.onItsCurve hs hon hp
    · exact hon u hu hp

end Points

/-- Settles O25: a step leaves file P, empties it by a reset, or commits a command, which writes a point of
its curve. -/
theorem stepKeepsPointsOnCurve : Obligations.StepKeepsPointsOnCurve := by
  intro s t hs hon h
  rcases step_cases h with hsame | ⟨-, hr⟩ | ⟨-, -, i, -, hx⟩
  · exact hon.of_pregs hsame.pregs
  · exact pointsOnCurve_of_reset hr.pregs
  · exact exec_keeps_pointsOnCurve hs.popEvent (hon.of_pregs rfl) hx

end Sys2Proof.Machine

/-! PROOF. The statements of 10_state.md on valid bits, reset, the staging buffers, STATUS, ID, CMD and PEQ
(O9, O10, O13, O15, O20, O21, O31, O50). -/

namespace Sys2Proof.Machine

/-! ## Valid bits (R28) -/

section ValidBits
variable {α : Type} {file : List (Option α)} {i : RegIdx} {v : α}

theorem readReg_isOk_iff : (readReg file i).isOk = true ↔ ∃ v, file[i.toNat]? = some (some v) := by
  simp only [← readReg_eq_ok]
  cases readReg file i <;> simp [Except.isOk, Except.toBool]

/-- A write sets the valid bit of its register, where there is such a register. -/
theorem readReg_writeReg_isOk_same (h : i.toNat < file.length) :
    (readReg (writeReg file i v) i).isOk = true :=
  readReg_isOk_iff.2 ⟨v, writeReg_getElem?_same h⟩

/-- A write clears no valid bit. -/
theorem readReg_writeReg_isOk {j : RegIdx} (h : (readReg file j).isOk = true) :
    (readReg (writeReg file i v) j).isOk = true := by
  by_cases hij : i = j
  · subst hij
    obtain ⟨u, hu⟩ := readReg_isOk_iff.1 h
    exact readReg_writeReg_isOk_same (List.getElem?_eq_some_iff.1 hu).1
  · have hne : i.toNat ≠ j.toNat := fun he => hij (BitVec.eq_of_toNat_eq he)
    simpa only [readReg_isOk_iff, writeReg_getElem?_ne hne] using h

theorem readReg_replicate_none (n : Nat) :
    readReg (List.replicate n (none : Option α)) i = .error .uninitializedRegister :=
  readReg_eq_error.2 ⟨rfl, fun _ hv => nomatch List.eq_of_mem_replicate (List.mem_of_getElem? hv)⟩

end ValidBits

namespace CommandWrite
variable {i : Instr} {s t : State} {o : RegClass × RegIdx}

/-- R28: no write of a command clears a valid bit. -/
theorem keeps_valid (h : CommandWrite i s t) (ho : s.isValid o = true) : t.isValid o = true := by
  obtain ⟨k, j⟩ := o
  cases h with
  | felt rd v _ =>
    cases k with
    | F => exact readReg_writeReg_isOk ho
    | _ => exact ho
  | curve rd e _ =>
    cases k with
    | C => exact readReg_writeReg_isOk ho
    | _ => exact ho
  | point rd v _ =>
    cases k with
    | P => exact readReg_writeReg_isOk ho
    | _ => exact ho
  | scalar rd n _ =>
    cases k with
    | S => exact readReg_writeReg_isOk ho
    | _ => exact ho
  | _ => cases k <;> exact ho

/-- R28: the write of a command with a destination makes the destination valid. -/
theorem dest_valid (h : CommandWrite i s t) (hs : s.Inv) (hd : i.dest = some o)
    (ho : o.2.toNat < s.cfg.count o.1) : t.isValid o = true := by
  cases h with
  | felt rd v hi =>
    obtain rfl : (.F, rd) = o := Option.some.inj (hi.symm.trans hd)
    exact readReg_writeReg_isOk_same (hs.countF ▸ ho)
  | curve rd e hi =>
    obtain rfl : (.C, rd) = o := Option.some.inj (hi.symm.trans hd)
    exact readReg_writeReg_isOk_same (hs.countC ▸ ho)
  | point rd v hi =>
    obtain rfl : (.P, rd) = o := Option.some.inj (hi.symm.trans hd)
    exact readReg_writeReg_isOk_same (hs.countP ▸ ho)
  | scalar rd k hi =>
    obtain rfl : (.S, rd) = o := Option.some.inj (hi.symm.trans hd)
    exact readReg_writeReg_isOk_same (hs.countS ▸ ho)
  | none hi => subst hi; cases hd
  | buffers rs1 a b hi => subst hi; cases hd
  | bufferA rs1 a hi => subst hi; cases hd
  | flag b hi => obtain ⟨rs1, rs2, rfl | rfl⟩ := hi <;> cases hd

end CommandWrite

/-- R94: the destination of a command that exists is a register that exists. -/
theorem dest_lt_count {cfg : Config} {i : Instr} {o : RegClass × RegIdx}
    (hwf : i.wellFormed cfg = true) (hd : i.dest = some o) : o.2.toNat < cfg.count o.1 :=
  of_decide_eq_true (List.all_eq_true.1 hwf o (List.mem_append_left _ (by simp [hd])))

/-- Settles O31: an error entry leaves the registers, and has ERR = 1; else the command makes its write. -/
theorem commandsNeverClearValidBits : Obligations.CommandsNeverClearValidBits := by
  intro i s t h
  rcases exec_cases h with ⟨e, rfl⟩ | ⟨s', hw, rfl⟩
  · exact ⟨fun _ ho => ho, fun _ _ _ herr => nomatch herr⟩
  · exact ⟨fun _ ho => hw.keeps_valid ho,
      fun hs hwf _ _ _ hd => hw.dest_valid hs hd (dest_lt_count hwf hd)⟩

/-! ## Reset (R38) -/

theorem resetOf_isValid (cfg : Config) (o : RegClass × RegIdx) :
    (State.resetOf cfg).isValid o = false := by
  obtain ⟨k, i⟩ := o
  cases k
  case F => exact congrArg Except.isOk (readReg_replicate_none cfg.nf)
  case C => exact congrArg Except.isOk (readReg_replicate_none cfg.nc)
  case P => exact congrArg Except.isOk (readReg_replicate_none cfg.np)
  case S => exact congrArg Except.isOk (readReg_replicate_none cfg.ns)

theorem resetOf_statusWord (cfg : Config) : (State.resetOf cfg).statusWord = 0 := by
  simp [State.statusWord, State.resetOf]

/-- Settles O9: no register is valid, and the rest is as `State.resetOf` writes it. -/
theorem resetLeavesSpecifiedValues : Obligations.ResetLeavesSpecifiedValues :=
  ⟨rfl, fun cfg => ⟨resetOf_isValid cfg, rfl, rfl, rfl, resetOf_statusWord cfg, rfl, rfl, rfl,
    rfl, rfl⟩⟩

/-- R5: the default parameters are legal, wherever the platform puts the window. -/
theorem default_legal : Config.default.Legal :=
  ⟨rfl, by decide, by decide, by decide, by decide, by decide, by decide, by decide, by decide,
    by decide, by decide, Nat.mul_mod_right _ _⟩

/-- Settles O10: reset is a legal state with no valid register. -/
theorem resetMeetsInvariant : Obligations.ResetMeetsInvariant :=
  ⟨fun _ h => ⟨State.resetOf_inv h, pointsOnCurve_of_reset rfl⟩, State.resetOf_inv default_legal⟩

/-! ## Steps that are accepted Host accesses (R62) -/

section Accesses
variable {s : State} {off : Nat} {v : Word}

theorem step_read (hr : s.resetLine = false) (hoff : off < 0x400) (ha : off % 4 = 0)
    (he : nextEvent s = .read (s.cfg.base + off) 4) :
    step s = .next (respond (popEvent s) (.readData (readWindow s off))) := by
  unfold step
  rw [he]
  exact hostRead_accepted (s := popEvent s) hr hoff ha

theorem step_write (hr : s.resetLine = false) (hoff : off < 0x400) (ha : off % 4 = 0)
    (he : nextEvent s = .write (s.cfg.base + off) 4 v) :
    step s = .next (respond (writeWindow (popEvent s) off v) .writeDone) := by
  unfold step
  rw [he]
  exact hostWrite_accepted (s := popEvent s) hr hoff ha

end Accesses

/-! ## STATUS, CTRL, CMD and ID (R32 to R35) -/

/-- R34: BUSY, DONE, ERR, T, STICKY_ERR and OVR are the low six bits of the status word. -/
theorem statusWord_bits (s : State) :
    s.statusWord.getLsbD 0 = s.busy ∧ s.statusWord.getLsbD 1 = s.done ∧
    s.statusWord.getLsbD 2 = s.err ∧ s.statusWord.getLsbD 3 = s.t ∧
    s.statusWord.getLsbD 4 = s.stickyErr ∧ s.statusWord.getLsbD 5 = s.ovr := by
  unfold State.statusWord
  refine ⟨?_, ?_, ?_, ?_, ?_, ?_⟩
  all_goals simp only [BitVec.getLsbD_append, BitVec.getLsbD_ofBool, Nat.reduceLT, Nat.reduceSub,
    Nat.lt_irrefl, Nat.zero_lt_one, if_true, if_false, decide_true, Bool.true_and]

/-- R34: ECODE stands in bits 15 to 8 of the status word, and the reserved bits are 0. -/
theorem statusWord_fields (s : State) :
    s.statusWord.extractLsb' 6 2 = 0 ∧ s.statusWord.extractLsb' 8 8 = s.ecode ∧
    s.statusWord.extractLsb' 16 16 = 0 := by
  unfold State.statusWord
  refine ⟨?_, ?_, ?_⟩
  all_goals simp (disch := decide) only [BitVec.extractLsb'_append_eq_of_le, Nat.reduceSub,
    BitVec.extractLsb'_append_eq_right, BitVec.extractLsb'_eq_self, BitVec.ofNat_eq_ofNat]

/-- Settles O13: the three reads are accepted reads of the map, and the word has the fields of R34. -/
theorem statusWordLayout : Obligations.StatusWordLayout :=
  ⟨fun _ hr => ⟨step_read hr (by decide) rfl, step_read hr (by decide) rfl,
    step_read hr (by decide) rfl⟩, fun s => by
    obtain ⟨hbusy, hdone, herr, ht, hsticky, hovr⟩ := statusWord_bits s
    exact ⟨hbusy, hdone, herr, ht, hsticky, hovr, statusWord_fields s⟩⟩

/-- Settles O20 (R35, R70): an accepted write of CMD with nothing in flight is the issue of its word. -/
theorem cmdWriteIssuesTheWord : Obligations.CmdWriteIssuesTheWord := by
  intro s w hr hb he
  have hstep := step_write hr (by decide) rfl he
  have hissue : writeWindow (popEvent s) 0x00C w = issue w (popEvent s) :=
    if_neg (by rw [popEvent_busy, hb]; decide)
  rw [hissue] at hstep
  exact ⟨_, hstep, rfl, rfl⟩

/-- R32: the fields of ID, from the version up. -/
theorem idWord_fields (cfg : Config) :
    (idWord cfg).extractLsb' 0 8 = 0x01 ∧
    (idWord cfg).extractLsb' 8 8 = BitVec.ofNat 8 cfg.words ∧
    (idWord cfg).extractLsb' 16 4 = BitVec.ofNat 4 (cfg.nf - 1) ∧
    (idWord cfg).extractLsb' 20 4 = BitVec.ofNat 4 (cfg.np - 1) ∧
    (idWord cfg).extractLsb' 24 4 = BitVec.ofNat 4 (cfg.nc - 1) ∧
    (idWord cfg).extractLsb' 28 4 = BitVec.ofNat 4 (cfg.ns - 1) := by
  unfold idWord
  refine ⟨?_, ?_, ?_, ?_, ?_, ?_⟩
  all_goals simp (disch := decide) only [BitVec.extractLsb'_append_eq_of_le, Nat.reduceSub,
    BitVec.extractLsb'_append_eq_right, BitVec.extractLsb'_eq_self, BitVec.ofNat_eq_ofNat]

/-- R5, R32: a legal register count, less 1, fits its four bits of ID. -/
theorem toNat_ofNat_four {n : Nat} (h : n ≤ 16) : (BitVec.ofNat 4 (n - 1)).toNat = n - 1 :=
  Nat.mod_eq_of_lt (by omega)

theorem idWord_default : idWord Config.default = 0x337F0801 := rfl

/-- Settles O15: the fields hold the parameters, which on a legal ECC-CORE fit them, and a write at the
offset of ID writes nothing. -/
theorem idReadsTheParameters : Obligations.IdReadsTheParameters := by
  refine ⟨fun cfg hlegal => ?_, idWord_default, fun s v hr =>
    ⟨fun he => step_read (off := 0) hr (by decide) rfl he,
      fun he => step_write (off := 0) hr (by decide) rfl he⟩⟩
  obtain ⟨hversion, hw, hf, hp, hc, hs⟩ := idWord_fields cfg
  obtain ⟨-, -, hw2048, -, hf16, -, hc16, -, hp16, -, hs16, -⟩ := hlegal
  have hwords : (BitVec.ofNat 8 cfg.words).toNat = cfg.w / 32 :=
    Nat.mod_eq_of_lt (by unfold Config.words; omega)
  rw [hw, hf, hp, hc, hs]
  exact ⟨hversion, hwords, toNat_ofNat_four hf16, toNat_ofNat_four hp16, toNat_ofNat_four hc16,
    toNat_ofNat_four hs16⟩

/-! ## The words of the staging buffers (R36) -/

section Buffers
variable {s : State} {cfg : Config} {off i : Nat} {v : Word}

/-- R61: the aligned offset of a DATA_A word. -/
theorem offset_of_dataA (h : windowReg cfg off = .dataA i) (ha : off % 4 = 0) :
    off = 0x100 + 4 * i := by
  unfold windowReg at h
  split_ifs at h
  cases h
  omega

/-- R61: the aligned offset of a DATA_B word. -/
theorem offset_of_dataB (h : windowReg cfg off = .dataB i) (ha : off % 4 = 0) :
    off = 0x200 + 4 * i := by
  unfold windowReg at h
  split_ifs at h
  cases h
  omega

theorem readWindow_dataA (h : windowReg s.cfg off = .dataA i) :
    readWindow s off = wordOf s.dataA i := by
  simp only [readWindow, h]

theorem readWindow_dataB (h : windowReg s.cfg off = .dataB i) :
    readWindow s off = wordOf s.dataB i := by
  simp only [readWindow, h]

/-- A write to a word of DATA_A is seen at no other word of the window. -/
theorem readWindow_setDataA_setWord_ne (h : windowReg s.cfg off ≠ .dataA i) :
    readWindow (s.setDataA (setWord s.dataA i v)) off = readWindow s off := by
  cases hreg : windowReg s.cfg off with
  | dataA j =>
    have hne : j ≠ i := fun hji => h (hji ▸ hreg)
    rw [readWindow_dataA hreg, ← wordOf_setWord_ne s.dataA v hne]
    exact readWindow_dataA (s := s.setDataA _) hreg
  | _ => simp [readWindow, hreg, State.statusWord]

theorem readWindow_setDataB_setWord_ne (h : windowReg s.cfg off ≠ .dataB i) :
    readWindow (s.setDataB (setWord s.dataB i v)) off = readWindow s off := by
  cases hreg : windowReg s.cfg off with
  | dataB j =>
    have hne : j ≠ i := fun hji => h (hji ▸ hreg)
    rw [readWindow_dataB hreg, ← wordOf_setWord_ne s.dataB v hne]
    exact readWindow_dataB (s := s.setDataB _) hreg
  | _ => simp [readWindow, hreg, State.statusWord]

theorem readWindow_setDataA_setWord_same (h : windowReg s.cfg off = .dataA i) :
    readWindow (s.setDataA (setWord s.dataA i v)) off = v :=
  (readWindow_dataA (s := s.setDataA (setWord s.dataA i v)) h).trans
    (wordOf_setWord_same s.dataA i v)

theorem writeWindow_dataA (hb : s.busy = false) (h : windowReg s.cfg off = .dataA i) :
    writeWindow s off v = s.setDataA (setWord s.dataA i v) := by
  simp [writeWindow, h, writeDataA, hb]

theorem readWindow_setDataB_setWord_same (h : windowReg s.cfg off = .dataB i) :
    readWindow (s.setDataB (setWord s.dataB i v)) off = v :=
  (readWindow_dataB (s := s.setDataB (setWord s.dataB i v)) h).trans
    (wordOf_setWord_same s.dataB i v)

theorem writeWindow_dataB (hb : s.busy = false) (h : windowReg s.cfg off = .dataB i) :
    writeWindow s off v = s.setDataB (setWord s.dataB i v) := by
  simp [writeWindow, h, writeDataB, hb]

end Buffers

/-- Settles O21: the offset is a word of one of the two buffers, which the write replaces. -/
theorem dataWordReadsBack : Obligations.DataWordReadsBack := by
  rintro s off v ⟨-, -, hw, -⟩ hr hb ⟨i, hi, rfl | rfl⟩ he
  · have hreg : windowReg (popEvent s).cfg (0x100 + 4 * i) = .dataA i := windowReg_dataA hi
    have hstep := step_write hr (by omega) (by omega) he
    rw [writeWindow_dataA (s := popEvent s) hb hreg] at hstep
    refine ⟨_, hstep, rfl, ?_, fun off' ha hne => ?_⟩
    · exact readWindow_setDataA_setWord_same (s := popEvent s) hreg
    · exact readWindow_setDataA_setWord_ne (s := popEvent s) fun h => hne (offset_of_dataA h ha)
  · have hreg : windowReg (popEvent s).cfg (0x200 + 4 * i) = .dataB i :=
      windowReg_dataB hi (by show s.cfg.w / 32 ≤ 64; omega)
    have hstep := step_write hr (by omega) (by omega) he
    rw [writeWindow_dataB (s := popEvent s) hb hreg] at hstep
    refine ⟨_, hstep, rfl, ?_, fun off' ha hne => ?_⟩
    · exact readWindow_setDataB_setWord_same (s := popEvent s) hreg
    · exact readWindow_setDataB_setWord_ne (s := popEvent s) fun h => hne (offset_of_dataB h ha)

/-! ## The comparison of points (R26, R177) -/

/-- R26: points of one curve compare as equal when they are the same point value. -/
theorem pointEq_eq_ite {P Q : PointVal} (h : P.curve = Q.curve) :
    pointEq P Q = if P = Q then true else false := by
  cases P with
  | ident e =>
    cases Q with
    | ident e' => cases h; simp [pointEq]
    | affine e' x y => simp [pointEq]
  | affine e x1 y1 =>
    cases Q with
    | ident e' => simp [pointEq]
    | affine e' x2 y2 => cases h; simp [pointEq]

/-- Settles O50: both points are read, they are of one curve, and T takes their comparison. -/
theorem peqWritesTestFlag : Obligations.PeqWritesTestFlag := by
  intro s rs1 rs2 P Q hP hQ hcurve
  have hread : twoPoints s rs1 rs2 = .ok (P, Q) :=
    twoPoints_eq_ok.2 ⟨State.readP_eq_ok.2 hP, State.readP_eq_ok.2 hQ, hcurve⟩
  have hexec : exec (.peq rs1 rs2) s = .next (commitDone (s.setT (pointEq P Q))) := by
    simp only [exec, execPeq, hread, ok_bind, commit_ok]
  rw [hexec, pointEq_eq_ite hcurve]
  rfl

end Sys2Proof.Machine

/-! PROOF. The statements of 20_memory.md: what an accepted, a dropped and a bad Host access does, the
order of bytes and words, where a step can stop, and what a command's commit leaves (O7, O16 to O19, O22, O27, O28). -/

namespace Sys2Proof.Machine

/-! ## How a command commits (R70, R71) -/

/-- The write of a command touches no error field: only an error entry does (R261). -/
theorem CommandWrite.errorFields {i : Instr} {s t : State} (h : CommandWrite i s t) :
    t.err = s.err ∧ t.stickyErr = s.stickyErr ∧ t.ecode = s.ecode := by
  cases h <;> exact ⟨rfl, rfl, rfl⟩

/-- R262: every command commits. -/
theorem exec_next (i : Instr) (s : State) : ∃ t, exec i s = .next t := by
  obtain ⟨r, hr, -⟩ := exec_eq_commit i s
  cases r with
  | error e => exact ⟨_, hr⟩
  | ok s' => exact ⟨_, hr⟩

/-- Settles O28: a command commits an error entry, or its write with BUSY and DONE set after it. -/
theorem commandErrorsChangeOnlyStatus : Obligations.CommandErrorsChangeOnlyStatus := by
  intro i s
  obtain ⟨t, ht⟩ := exec_next i s
  rcases exec_cases ht with ⟨e, rfl⟩ | ⟨s', hw, rfl⟩
  · exact .inl ⟨e, ht⟩
  · obtain ⟨herr, hsticky, hcode⟩ := hw.errorFields
    exact .inr ⟨_, ht, herr, hsticky, hcode, rfl, rfl⟩

/-! ## The Engine's turn (R70, R271) -/

section EngineTurn
variable {s : State} {i : Instr}

theorem step_engine_decoded (hb : s.busy = true) (hr : s.resetLine = false)
    (he : nextEvent s = .engine) (hi : decode s.cfg s.cmd = some i) :
    step s = exec i (popEvent s) := by
  have hon : engineEnabled (popEvent s) = true := engineEnabled_iff.2 ⟨hb, hr⟩
  have hfetch : fetch (popEvent s) = some i := hi
  simp only [step, he, runEvent, engineTurn, hon, hfetch, if_true]

theorem step_engine_idle (hb : s.busy = false) (he : nextEvent s = .engine) :
    step s = .next (popEvent s) := by
  have hoff : engineEnabled (popEvent s) = false := by simp [engineEnabled, hb]
  simp [step, he, runEvent, engineTurn, hoff]

/-- Log 4: the word placed for fetching has the next turn, whatever the agenda was. -/
theorem nextEvent_withFetchWord (s : State) (nbits w : Nat) :
    nextEvent (s.withFetchWord nbits w) = .engine := by
  by_cases h : nextEvent s = .engine
  · rw [State.withFetchWord, if_pos h]
    exact h
  · rw [State.withFetchWord, if_neg h]
    rfl

end EngineTurn

/-- Settles O7: the enabled turn is the command's, and the word placed for fetching has such a turn. -/
theorem stepRunsDecodedCommand : Obligations.StepRunsDecodedCommand :=
  ⟨fun _ _ => step_engine_decoded, fun _ => step_engine_idle, fun s nbits w _ =>
    step_engine_decoded rfl rfl (nextEvent_withFetchWord s nbits w)⟩

/-! ## Reads and bad accesses (R62, R63, R67) -/

section Accesses
variable {s : State} {addr off bytes : Nat} {v : Word}

/-- What a Host read inside the window answers (R62, R63, R280). -/
def readResponse (addr bytes : Nat) (s : State) : Response :=
  if s.resetLine then .noResponse
  else if acceptedAccess s.cfg addr bytes then .readData (readWindow s (addr - s.cfg.base))
  else badReadResponse s.cfg.badAccessMode

theorem hostRead_inWindow (h : inWindow s.cfg addr = true) :
    hostRead addr bytes s = .next (respond s (readResponse addr bytes s)) := by
  unfold hostRead readResponse
  rw [if_pos h]
  split_ifs <;> rfl

theorem readResponse_accepted (hr : s.resetLine = false) (hb : bytes = 4)
    (ha : (addr - s.cfg.base) % 4 = 0) :
    readResponse addr bytes s = .readData (readWindow s (addr - s.cfg.base)) := by
  have hx : acceptedAccess s.cfg addr bytes = true := decide_eq_true ⟨hb, ha⟩
  simp [readResponse, hr, hx]

theorem step_read_inWindow (h : inWindow s.cfg addr = true) (he : nextEvent s = .read addr bytes) :
    step s = .next (respond (popEvent s) (readResponse addr bytes s)) := by
  unfold step
  rw [he]
  exact hostRead_inWindow (s := popEvent s) h

theorem badReadResponse_eq (mode : BadAccessMode) :
    badReadResponse mode = if mode = .busError then .busError else .readData 0 := by
  cases mode <;> rfl

theorem badWriteResponse_eq (mode : BadAccessMode) :
    badWriteResponse mode = if mode = .busError then .busError else .writeDone := by
  cases mode <;> rfl

theorem inWindow_offset {cfg : Config} (h : off < 0x400) : inWindow cfg (cfg.base + off) = true :=
  decide_eq_true (by omega)

theorem acceptedAccess_bad {cfg : Config} (h : bytes ≠ 4 ∨ off % 4 ≠ 0) :
    acceptedAccess cfg (cfg.base + off) bytes = false :=
  decide_eq_false (by omega)

theorem step_badRead (hr : s.resetLine = false) (hoff : off < 0x400)
    (hbad : bytes ≠ 4 ∨ off % 4 ≠ 0) (he : nextEvent s = .read (s.cfg.base + off) bytes) :
    step s = .next (respond (popEvent s) (badReadResponse s.cfg.badAccessMode)) := by
  simp [step, he, runEvent, hostRead, hr, inWindow_offset hoff, acceptedAccess_bad hbad]

theorem step_badWrite (hr : s.resetLine = false) (hoff : off < 0x400)
    (hbad : bytes ≠ 4 ∨ off % 4 ≠ 0) (he : nextEvent s = .write (s.cfg.base + off) bytes v) :
    step s = .next (respond (popEvent s) (badWriteResponse s.cfg.badAccessMode)) := by
  simp [step, he, runEvent, hostWrite, hr, inWindow_offset hoff, acceptedAccess_bad hbad]

end Accesses

/-- Settles O16: what a read answers depends neither on the agenda nor on the answer before (R67). -/
theorem readsHaveNoSideEffect : Obligations.ReadsHaveNoSideEffect := by
  intro s addr bytes he hlo hhi
  have hw : inWindow s.cfg addr = true := decide_eq_true ⟨hlo, hhi⟩
  refine ⟨readResponse addr bytes s, step_read_inWindow hw he, readResponse_accepted,
    fun rest ha => ?_⟩
  have hagenda : (popEvent s).agenda = .read addr bytes :: rest := by rw [popEvent_agenda, ha]; rfl
  obtain rfl : s.agenda.tail.tail = rest := by rw [ha]; rfl
  exact step_read_inWindow
    (s := { popEvent s with response := some (readResponse addr bytes s) }) hw
    (nextEvent_cons hagenda)

/-- Settles O18: a bad access only answers, as BAD_ACCESS_MODE says. -/
theorem badAccessesChangeNothing : Obligations.BadAccessesChangeNothing := by
  intro s off bytes v hr hoff hbad
  rw [← badReadResponse_eq, ← badWriteResponse_eq]
  exact ⟨step_badRead hr hoff hbad, step_badWrite hr hoff hbad⟩

/-! ## Where a step stops (R60, R262) -/

section Stops
variable {s t : State} {e : Event}

theorem engineTurn_next (s : State) : ∃ t, engineTurn s = .next t := by
  rcases engineTurn_cases s with ⟨-, h⟩ | ⟨-, -, h⟩ | ⟨-, i, -, h⟩
  · exact ⟨_, h⟩
  · exact ⟨_, h⟩
  · exact h ▸ exec_next i s

theorem hostWrite_next {addr bytes : Nat} {v : Word} (h : inWindow s.cfg addr = true) :
    ∃ t, hostWrite addr bytes v s = .next t := by
  rcases hostWrite_cases addr bytes v s with ⟨hout, -⟩ | ⟨-, -, r, he⟩ | ⟨-, -, -, he⟩
  · exact absurd (h.symm.trans hout) (by decide)
  · exact ⟨_, he⟩
  · exact ⟨_, he⟩

/-- An event inside the window has a next state. -/
theorem runEvent_next (h : e.InWindow s.cfg) : ∃ t, runEvent e s = .next t := by
  cases e with
  | read addr bytes => exact ⟨_, hostRead_inWindow (decide_eq_true h)⟩
  | write addr bytes v => exact hostWrite_next (decide_eq_true h)
  | engine => exact engineTurn_next s
  | assertReset => exact ⟨_, rfl⟩
  | releaseReset => exact ⟨_, rfl⟩

/-- An event outside the window is a Host access, and it faults (log 6). -/
theorem runEvent_fault (h : ¬ e.InWindow s.cfg) :
    ∃ addr bytes v, runEvent e s = .fault (.outsideWindow addr) ∧
      (e = .read addr bytes ∨ e = .write addr bytes v) ∧
      (addr < s.cfg.base ∨ s.cfg.base + 0x400 ≤ addr) := by
  cases e with
  | read addr bytes =>
    have hout : ¬ (s.cfg.base ≤ addr ∧ addr < s.cfg.base + 0x400) := h
    have hw : inWindow s.cfg addr = false := decide_eq_false hout
    exact ⟨addr, bytes, 0, by simp [runEvent, hostRead, hw], .inl rfl, by omega⟩
  | write addr bytes v =>
    have hout : ¬ (s.cfg.base ≤ addr ∧ addr < s.cfg.base + 0x400) := h
    have hw : inWindow s.cfg addr = false := decide_eq_false hout
    exact ⟨addr, bytes, v, by simp [runEvent, hostWrite, hw], .inr rfl, by omega⟩
  | engine => exact absurd trivial h
  | assertReset => exact absurd trivial h
  | releaseReset => exact absurd trivial h

theorem step_next (h : (nextEvent s).InWindow s.cfg) : ∃ t, step s = .next t :=
  runEvent_next (s := popEvent s) h

/-! ### The agenda of a run -/

theorem engineTurn_agenda (h : engineTurn s = .next t) : t.agenda = s.agenda := by
  rcases engineTurn_cases s with ⟨-, he⟩ | ⟨-, -, he⟩ | ⟨-, i, -, he⟩
  · cases he.symm.trans h; rfl
  · cases he.symm.trans h; rfl
  · obtain ⟨-, -, -, -, -, -, -, -, -, -, -, hagenda, -⟩ :=
      commandsWriteOnlyTheirDestination i s t (he.symm.trans h)
    exact hagenda

theorem writeWindow_agenda (s : State) (off : Nat) (v : Word) :
    (writeWindow s off v).agenda = s.agenda := by
  rcases writeWindow_cases s off v with
    he | he | he | ⟨-, he⟩ | ⟨-, he⟩ | ⟨-, i, -, he⟩ | ⟨-, i, -, he⟩ <;> rw [he] <;> rfl

theorem releaseReset_agenda (s : State) : (releaseReset s).agenda = s.agenda := by
  unfold releaseReset
  split <;> rfl

/-- No event puts another on the agenda. -/
theorem runEvent_agenda (h : runEvent e s = .next t) : t.agenda = s.agenda := by
  cases e with
  | read addr bytes =>
    rcases hostRead_cases addr bytes s with ⟨-, he⟩ | ⟨-, r, he⟩
    · cases he.symm.trans h
    · cases he.symm.trans h; rfl
  | write addr bytes v =>
    rcases hostWrite_cases addr bytes v s with ⟨-, he⟩ | ⟨-, -, r, he⟩ | ⟨-, -, -, he⟩
    · cases he.symm.trans h
    · cases he.symm.trans h; rfl
    · cases he.symm.trans h; exact writeWindow_agenda s _ v
  | engine => exact engineTurn_agenda h
  | assertReset => cases h; rfl
  | releaseReset => cases h; exact releaseReset_agenda s

theorem step_agenda (h : step s = .next t) : t.agenda = s.agenda.tail :=
  runEvent_agenda (s := popEvent s) h

theorem nextEvent_inWindow (h : ∀ e ∈ s.agenda, e.InWindow s.cfg) :
    (nextEvent s).InWindow s.cfg := by
  cases ha : s.agenda with
  | nil => rw [nextEvent_nil ha]; trivial
  | cons e rest => rw [nextEvent_cons ha]; exact h e (by simp [ha])

/-- A run whose agenda stays inside the window never stops. -/
theorem runs_of_inWindow (n : Nat) (h : ∀ e ∈ s.agenda, e.InWindow s.cfg) : s.Runs n := by
  induction n generalizing s with
  | zero => trivial
  | succ n ih =>
    obtain ⟨t, ht⟩ := step_next (nextEvent_inWindow h)
    refine ⟨t, ht, ih fun e he => ?_⟩
    rw [step_agenda ht] at he
    rw [stepKeepsParameters s t ht]
    exact h e (List.mem_of_mem_tail he)

end Stops

/-- Settles O27: an event has a next state inside the window and faults outside it; a run stays inside. -/
theorem stepsStopOnlyOutsideTheWindow : Obligations.StepsStopOnlyOutsideTheWindow := by
  refine ⟨fun s => ?_, fun _ n => runs_of_inWindow n⟩
  by_cases h : (nextEvent s).InWindow s.cfg
  · exact .inl (step_next h)
  · exact .inr (runEvent_fault (s := popEvent s) h)

/-! ## Reserved offsets (R61, R64) -/

section Reserved
variable {s : State} {cfg : Config} {off : Nat}

/-- R5: the words of a legal buffer end where the map gives the next one its place. -/
theorem words_le (h : cfg.Legal) : cfg.words ≤ 64 := by
  obtain ⟨-, -, hw, -⟩ := h
  unfold Config.words
  omega

theorem reservedOffset_lt (hl : cfg.Legal) (h : Claims.ReservedOffset cfg off) : off < 0x400 := by
  obtain ⟨-, -, hw, -⟩ := hl
  unfold Claims.ReservedOffset at h
  omega

theorem windowReg_reserved (hl : cfg.Legal) (h : Claims.ReservedOffset cfg off) :
    windowReg cfg off = .reserved := by
  obtain ⟨-, -, hw, -⟩ := hl
  unfold Claims.ReservedOffset at h
  unfold windowReg Config.words
  rw [if_neg (by omega), if_neg (by omega), if_neg (by omega), if_neg (by omega),
    if_neg (by omega), if_neg (by omega)]

theorem readWindow_reserved (h : windowReg s.cfg off = .reserved) : readWindow s off = 0 := by
  simp [readWindow, h]

theorem writeWindow_reserved (v : Word) (h : windowReg s.cfg off = .reserved) :
    writeWindow s off v = s := by
  simp [writeWindow, h]

end Reserved

/-- Settles O17: the accesses are accepted, and the map has no register at the offset. -/
theorem reservedOffsetsReadZeroIgnoreWrites :
    Obligations.ReservedOffsetsReadZeroIgnoreWrites := by
  intro s off v hl hr hres ha
  have hoff : off < 0x400 := reservedOffset_lt hl hres
  have hreg := windowReg_reserved hl hres
  refine ⟨fun he => ?_, fun he => ?_⟩
  · rw [step_read hr hoff ha he, readWindow_reserved hreg]
    rfl
  · rw [step_write hr hoff ha he, writeWindow_reserved (s := popEvent s) v hreg]
    rfl

/-! ## Accesses while a command is in flight (R69) -/

/-- R69: the registers whose writes are dropped while BUSY = 1. -/
def WindowReg.Dropped (r : WindowReg) : Prop :=
  r = .cmd ∨ ∃ i, r = .dataA i ∨ r = .dataB i

theorem writeWindow_dropped {s : State} {off : Nat} (v : Word) (hb : s.busy = true)
    (h : (windowReg s.cfg off).Dropped) : writeWindow s off v = dropWrite s := by
  rcases h with h | ⟨i, h | h⟩
  · simp [writeWindow, h, writeCmd, hb]
  · simp [writeWindow, h, writeDataA, hb]
  · simp [writeWindow, h, writeDataB, hb]

/-- Settles O19: each access is accepted, and does what its register does while BUSY = 1. -/
theorem busyWritesAreDroppedAndSetOvr : Obligations.BusyWritesAreDroppedAndSetOvr := by
  intro s v hl hr hb
  have hw := words_le hl
  refine ⟨fun off hoff he => ?_, fun he hv => ?_, fun he => ?_, fun off hoff ha he => ?_⟩
  · obtain ⟨hlt, ha, hreg⟩ : off < 0x400 ∧ off % 4 = 0 ∧ (windowReg s.cfg off).Dropped := by
      rcases hoff with rfl | ⟨i, hi, rfl | rfl⟩
      · exact ⟨by decide, rfl, .inl rfl⟩
      · exact ⟨by omega, by omega, .inr ⟨i, .inl (windowReg_dataA hi)⟩⟩
      · exact ⟨by omega, by omega, .inr ⟨i, .inr (windowReg_dataB hi hw)⟩⟩
    rw [step_write hr hlt ha he, writeWindow_dropped (s := popEvent s) v hb hreg]
    rfl
  · rw [step_write hr (by decide) rfl he, writeWindow_softReset hv]
    exact ⟨_, rfl, rfl⟩
  · exact ⟨_, step_write hr (by decide) rfl he, hb, rfl, rfl⟩
  · refine ⟨_, step_read hr hoff ha he, ?_, ?_⟩
    · rintro i hi rfl
      exact readWindow_dataA (windowReg_dataA hi)
    · rintro i hi rfl
      exact readWindow_dataB (windowReg_dataB hi hw)

/-! ## The order of bytes and words (R65, R66) -/

theorem toNat_byteOf (x : Word) (j : Nat) : (byteOf x j).toNat = x.toNat / 2 ^ (8 * j) % 2 ^ 8 := by
  simp [byteOf, Nat.shiftRight_eq_div_pow]

theorem windowByte_add {s : State} {off j : Nat} (ha : off % 4 = 0) (hj : j < 4) :
    windowByte s (off + j) = byteOf (readWindow s off) j := by
  have hmod : (off + j) % 4 = j := by omega
  rw [windowByte, hmod, Nat.add_sub_cancel]

/-- R65: a word is the sum of its bytes, the first one the least significant. -/
theorem toNat_eq_bytes (x : Word) :
    x.toNat = (byteOf x 0).toNat + 2 ^ 8 * (byteOf x 1).toNat + 2 ^ 16 * (byteOf x 2).toNat +
      2 ^ 24 * (byteOf x 3).toNat := by
  have hx : x.toNat < 2 ^ 32 := x.isLt
  simp only [toNat_byteOf]
  omega

/-- R66: the first `n` words of a value are the value modulo `2^(32*n)`. -/
theorem sum_wordOf (v n : Nat) :
    ∑ i ∈ Finset.range n, (wordOf v i).toNat * 2 ^ (32 * i) = v % 2 ^ (32 * n) := by
  induction n with
  | zero => simp [Nat.mod_one]
  | succ n ih =>
    rw [Finset.sum_range_succ, ih, pow_word_succ, Nat.mod_mul, wordOf, BitVec.toNat_ofNat,
      Nat.mul_comm (_ % _)]

/-- R66: a value that fits the words of a buffer is the sum of them, as the window shows them. -/
theorem eq_sum_words {cfg : Config} {v : Nat} {word : Nat → Word} (hl : cfg.Legal)
    (hv : v < 2 ^ cfg.w) (hword : ∀ i < cfg.words, word i = wordOf v i) :
    v = ∑ i ∈ Finset.range cfg.words, (word i).toNat * 2 ^ (32 * i) := by
  have hw : 32 * cfg.words = cfg.w := Nat.mul_div_cancel' (Nat.dvd_of_mod_eq_zero hl.1)
  calc v = v % 2 ^ (32 * cfg.words) := by rw [hw, Nat.mod_eq_of_lt hv]
    _ = ∑ i ∈ Finset.range cfg.words, (wordOf v i).toNat * 2 ^ (32 * i) := (sum_wordOf v _).symm
    _ = ∑ i ∈ Finset.range cfg.words, (word i).toNat * 2 ^ (32 * i) :=
      Finset.sum_congr rfl fun i hi => by rw [hword i (Finset.mem_range.1 hi)]

/-- Settles O22: a word is the sum of its bytes, and a buffer, W bits wide, the sum of its words. -/
theorem bytesAndWordsAreLeastSignificantFirst :
    Obligations.BytesAndWordsAreLeastSignificantFirst := by
  refine ⟨fun s off ha => ?_, fun s hs => ⟨?_, ?_⟩⟩
  · rw [windowByte_add (j := 1) ha (by decide), windowByte_add (j := 2) ha (by decide),
      windowByte_add (j := 3) ha (by decide)]
    exact windowByte_add (s := s) (j := 0) ha (by decide) ▸ toNat_eq_bytes (readWindow s off)
  · exact eq_sum_words hs.legal hs.bufferA fun i hi => readWindow_dataA (windowReg_dataA hi)
  · exact eq_sum_words hs.legal hs.bufferB fun i hi =>
      readWindow_dataB (windowReg_dataB hi (words_le hs.legal))

end Sys2Proof.Machine

/-! PROOF. The statements of 30_encoding.md. Every row of the opcode table makes commands whose mnemonic,
operands and word are the row's (`Row.Faithful`), and a row is known from its opcode, its mnemonic or a word
it selects; decoder, encoder and assembler are then compared through the one row of a word. -/

namespace Sys2Proof

/-! ## The rows of the opcode table and the commands they make (R92, R110) -/

/-- The value of a register field of a row: an unused field is 0 (R93). -/
def usedField (cls : Option RegClass) (x : RegIdx) : RegIdx := if cls.isSome then x else 0

theorem usedField_eq_self {cls : Option RegClass} {x : RegIdx} (h : cls = none → x = 0) :
    usedField cls x = x := by
  cases cls with
  | none => exact (h rfl).symm
  | some k => rfl

theorem usedField_none {cls : Option RegClass} {x : RegIdx} (h : cls = none) : usedField cls x = 0 := by
  subst h
  rfl

/-- The operands that fields with their classes stand for: the used fields, in order (R110). -/
def fieldOperands : List (Option RegClass × RegIdx) → List (RegClass × RegIdx)
  | [] => []
  | (none, _) :: fs => fieldOperands fs
  | (some k, x) :: fs => (k, x) :: fieldOperands fs

/-- The classes of a row's register fields, with values for the fields in the order rd, rs1, rs2, rs3. -/
def Row.fields (r : Row) (d a b c : RegIdx) : List (Option RegClass × RegIdx) :=
  [(r.rd, d), (r.rs1, a), (r.rs2, b), (r.rs3, c)]

/-- The command that a row makes of the fields of a word. -/
def Row.command (r : Row) (w : Word) : Instr :=
  r.build (rdField w) (rs1Field w) (rs2Field w) (rs3Field w)

/-- R92, R110: the commands a row makes have the row's mnemonic, its used fields as operands and its opcode
and used fields in their word, and depend on no unused field. -/
structure Row.Faithful (r : Row) : Prop where
  mnemonic : ∀ d a b c, (r.build d a b c).mnemonic = r.mnemonic
  operands : ∀ d a b c, (r.build d a b c).operands = fieldOperands (r.fields d a b c)
  word : ∀ d a b c, encode (r.build d a b c) =
    pack (opField r.pattern) (usedField r.rd d) (usedField r.rs1 a) (usedField r.rs2 b)
      (usedField r.rs3 c) 0
  unused : ∀ d a b c,
    r.build (usedField r.rd d) (usedField r.rs1 a) (usedField r.rs2 b) (usedField r.rs3 c) =
      r.build d a b c

theorem opcodeTable_faithful : ∀ r ∈ opcodeTable, r.Faithful := by
  intro r hr
  simp only [opcodeTable, systemAndFieldRows, scalarRows, curveRows, pointRows, List.cons_append,
    List.nil_append] at hr
  fin_cases hr <;>
    exact ⟨fun _ _ _ _ => rfl, fun _ _ _ _ => rfl, fun _ _ _ _ => rfl, fun _ _ _ _ => rfl⟩

/-- R92: every command is made by a row of the opcode table. -/
theorem exists_row_build (i : Instr) : ∃ r ∈ opcodeTable, ∃ d a b c, r.build d a b c = i := by
  have built : ∀ (n : Fin 22) (d a b c : RegIdx), (opcodeTable[n.1]'n.2).build d a b c = i →
      ∃ r ∈ opcodeTable, ∃ d a b c, r.build d a b c = i :=
    fun n d a b c h => ⟨_, List.getElem_mem n.2, d, a, b, c, h⟩
  cases i with
  | nop => exact built 0 0 0 0 0 rfl
  | fnew d => exact built 1 d 0 0 0 rfl
  | frd a => exact built 2 0 a 0 0 rfl
  | fadd d a b => exact built 3 d a b 0 rfl
  | fsub d a b => exact built 4 d a b 0 rfl
  | fmul d a b => exact built 5 d a b 0 rfl
  | fdiv d a b => exact built 6 d a b 0 rfl
  | finv d a => exact built 7 d a 0 0 rfl
  | fpowu d a b => exact built 8 d a b 0 rfl
  | fpows d a b => exact built 9 d a b 0 rfl
  | feq a b => exact built 10 0 a b 0 rfl
  | sld d => exact built 11 d 0 0 0 rfl
  | sst a => exact built 12 0 a 0 0 rfl
  | cnew d a b => exact built 13 d a b 0 rfl
  | pnew d a b c => exact built 14 d a b c rfl
  | pid d a => exact built 15 d a 0 0 rfl
  | padd d a b => exact built 16 d a b 0 rfl
  | peq a b => exact built 17 0 a b 0 rfl
  | pgetx d a => exact built 18 d a 0 0 rfl
  | pgety d a => exact built 19 d a 0 0 rfl
  | pmuln d a b => exact built 20 d a b 0 rfl
  | pmulb d a b => exact built 21 d a b 0 rfl

/-- R94: every operand names an existing register when every used field does. -/
theorem fieldOperands_all (cfg : Config) (fs : List (Option RegClass × RegIdx)) :
    (fieldOperands fs).all cfg.hasReg = fs.all fun f => fieldInRange cfg f.1 f.2 := by
  induction fs with
  | nil => rfl
  | cons f fs ih =>
    obtain ⟨_ | k, x⟩ := f <;> simp [fieldOperands, fieldInRange, ih]

/-! ## What tells the rows apart (R92) -/

theorem opcodes_nodup : (opcodeTable.map fun r => opField r.pattern).Nodup :=
  List.pairwise_map.2 opcodeTable_opcodes

theorem mnemonics_nodup : (opcodeTable.map Row.mnemonic).Nodup := by decide

/-- R92: the opcodes of the table. -/
theorem opcodes_eq : (opcodeTable.map fun r => opField r.pattern) =
    [0x00, 0x10, 0x11, 0x12, 0x13, 0x14, 0x15, 0x16, 0x17, 0x18, 0x19, 0x20, 0x21, 0x30,
      0x40, 0x41, 0x42, 0x43, 0x44, 0x45, 0x46, 0x47] := by
  decide

section Rows
variable {r : Row} (hr : r ∈ opcodeTable) {w : Word}
include hr

/-- A search of the table that at most one row can satisfy finds the row that does. -/
theorem find_opcodeTable {p : Row → Bool} (hp : p r = true)
    (unique : ∀ r' ∈ opcodeTable, p r' = true → r' = r) : opcodeTable.find? p = some r := by
  obtain ⟨r', hfind⟩ := Option.isSome_iff_exists.1 (List.find?_isSome.2 ⟨r, hr, hp⟩)
  rw [hfind, unique r' (List.mem_of_find?_eq_some hfind) (List.find?_some hfind)]

/-- R92: the row that selects a word is the one the decoder finds. -/
theorem find_selects (hs : r.selects w = true) : opcodeTable.find? (·.selects w) = some r := by
  refine find_opcodeTable hr hs fun r' hr' hs' => List.inj_on_of_nodup_map opcodes_nodup hr' hr ?_
  exact ((row_selects_iff hr' w).1 hs').1.symm.trans ((row_selects_iff hr w).1 hs).1

/-- R92: a row is found by its mnemonic. -/
theorem find_mnemonic : opcodeTable.find? (fun r' => r'.mnemonic = r.mnemonic) = some r :=
  find_opcodeTable hr (decide_eq_true rfl) fun _ hr' h =>
    List.inj_on_of_nodup_map mnemonics_nodup hr' hr (of_decide_eq_true h)

/-! ## The decoder, by the row that selects the word (R94, R95) -/

/-- R94: the used fields of a word are in range for a row when the command the row makes of it exists. -/
theorem inRange_eq_wellFormed (cfg : Config) (w : Word) :
    r.inRange cfg w = (r.command w).wellFormed cfg := by
  rw [Instr.wellFormed, Row.command, (opcodeTable_faithful r hr).operands, fieldOperands_all]
  simp [Row.inRange, Row.fields, Bool.and_assoc]

/-- R95: a selected word decodes to its row's command, if that command exists. -/
theorem decode_of_selects (cfg : Config) (hs : r.selects w = true) :
    decode cfg w = if (r.command w).wellFormed cfg then some (r.command w) else none := by
  rw [decode, find_selects hr hs, ← inRange_eq_wellFormed hr]
  rfl

/-- R92, R93, R110: a selected word is the word of its row's command. -/
theorem encode_command (hs : r.selects w = true) : encode (r.command w) = w := by
  obtain ⟨hop, hd, ha, hb, hc, hz⟩ := (row_selects_iff hr w).1 hs
  rw [Row.command, (opcodeTable_faithful r hr).word, usedField_eq_self hd, usedField_eq_self ha,
    usedField_eq_self hb, usedField_eq_self hc, ← hop, ← hz, pack_fields]

/-- R93, R110: a row selects the word of each command it makes. -/
theorem selects_encode_build (d a b c : RegIdx) : r.selects (encode (r.build d a b c)) = true := by
  rw [(opcodeTable_faithful r hr).word]
  exact row_selects_pack hr rfl usedField_none usedField_none usedField_none usedField_none

/-- The command a row makes of the word of one of its commands is that command. -/
theorem command_encode_build (d a b c : RegIdx) :
    r.command (encode (r.build d a b c)) = r.build d a b c := by
  rw [(opcodeTable_faithful r hr).word, Row.command, rdField_pack, rs1Field_pack, rs2Field_pack,
    rs3Field_pack, (opcodeTable_faithful r hr).unused]

end Rows

/-- R95: a word that decodes is selected by a row, and its command is the row's. -/
theorem exists_row_of_decode {cfg : Config} {w : Word} {i : Instr} (h : decode cfg w = some i) :
    ∃ r ∈ opcodeTable, r.selects w = true ∧ r.command w = i ∧ i.wellFormed cfg = true := by
  rcases hf : opcodeTable.find? (·.selects w) with _ | r
  · simp [decode, hf] at h
  · have hr := List.mem_of_find?_eq_some hf
    have hs : r.selects w = true := List.find?_some (p := fun r : Row => r.selects w) hf
    rw [decode_of_selects hr cfg hs, Option.ite_none_right_eq_some, Option.some.injEq] at h
    obtain ⟨hwf, rfl⟩ := h
    exact ⟨r, hr, hs, rfl, hwf⟩

/-- Settles O2: the row that makes the command selects the command's word, and makes the command of it. -/
theorem decodeOfEncode : Obligations.DecodeOfEncode := by
  intro cfg i hwf
  obtain ⟨r, hr, d, a, b, c, rfl⟩ := exists_row_build i
  rw [decode_of_selects hr cfg (selects_encode_build hr d a b c), command_encode_build hr, if_pos hwf]

/-- Settles O3: the row of the word makes a command whose word is the selected one. -/
theorem encodeOfDecode : Obligations.EncodeOfDecode := by
  intro cfg w i h
  obtain ⟨r, hr, hs, rfl, hwf⟩ := exists_row_of_decode h
  exact ⟨encode_command hr hs, hwf⟩

/-- Settles O4: two rows that match a word have its opcode, and no opcode stands in two rows. -/
theorem atMostOneRowSelectsAWord : Obligations.AtMostOneRowSelectsAWord := by
  intro w n m hn hm
  have opcode : ∀ k : Fin opcodeTable.length, w &&& opcodeTable[k].mask = opcodeTable[k].pattern →
      opField w = opField opcodeTable[k].pattern := fun k h =>
    ((row_selects_iff (List.getElem_mem _) w).1 (decide_eq_true h)).1
  have h := (opcode n hn).symm.trans (opcode m hm)
  exact Fin.ext ((opcodes_nodup.getElem_inj_iff (hi := by simp) (hj := by simp)).1 (by simpa using h))

/-! ## Reserved opcodes (R96) -/

theorem reservedOpcode_iff (op : BitVec 8) :
    Claims.ReservedOpcode op ↔ ∀ r ∈ opcodeTable, opField r.pattern ≠ op := by
  calc Claims.ReservedOpcode op ↔ op ∉ opcodeTable.map fun r => opField r.pattern := by
        rw [opcodes_eq, Claims.ReservedOpcode]
        simp only [List.mem_cons, List.not_mem_nil, or_false, not_or]
        bv_omega
    _ ↔ ∀ r ∈ opcodeTable, opField r.pattern ≠ op := by simp

/-- Settles O5: no row has a reserved opcode, so no row selects the word; NOP is the command of its word. -/
theorem reservedOpcodesAreIllegal : Obligations.ReservedOpcodesAreIllegal := by
  refine ⟨reservedOpcode_iff, fun cfg w hres => ?_, fun cfg w => ⟨fun h => ?_, ?_⟩⟩
  · rw [Option.eq_none_iff_forall_ne_some]
    intro i hi
    obtain ⟨r, hr, hs, -⟩ := exists_row_of_decode hi
    exact (reservedOpcode_iff _).1 hres r hr ((row_selects_iff hr w).1 hs).1.symm
  · exact (encodeOfDecode cfg w .nop h).1.symm
  · rintro rfl
    exact decodeOfEncode cfg .nop rfl

/-! ## The assembler (R110, R111) -/

/-- R93, R110: operands that name existing registers go into the used fields, and 0 into the others. -/
theorem placeOperands_fieldOperands {cfg : Config} (fs : List (Option RegClass × RegIdx))
    (h : (fieldOperands fs).all cfg.hasReg = true) :
    placeOperands cfg (fs.map Prod.fst) ((fieldOperands fs).map fun o => (o.1, o.2.toNat)) =
      some (fs.map fun f => usedField f.1 f.2) := by
  induction fs with
  | nil => rfl
  | cons f fs ih =>
    obtain ⟨_ | k, x⟩ := f
    · simp [placeOperands, fieldOperands, usedField, ih h]
    · obtain ⟨hx, hfs⟩ : x.toNat < cfg.count k ∧ (fieldOperands fs).all cfg.hasReg = true := by
        simpa [fieldOperands, Config.hasReg] using h
      simp [placeOperands, fieldOperands, usedField, hx, ih hfs]

/-- R110: a row assembles each command it makes from the command's operands. -/
theorem assemble_build {r : Row} (hr : r ∈ opcodeTable) {cfg : Config} {d a b c : RegIdx}
    (h : (r.build d a b c).wellFormed cfg = true) :
    r.assemble cfg ((r.build d a b c).operands.map fun o => (o.1, o.2.toNat)) =
      some (r.build d a b c) := by
  obtain ⟨-, hops, -, hunused⟩ := opcodeTable_faithful r hr
  rw [Instr.wellFormed, hops] at h
  have hplace : placeOperands cfg [r.rd, r.rs1, r.rs2, r.rs3] _ = some _ :=
    placeOperands_fieldOperands (r.fields d a b c) h
  rw [hops, Row.assemble, hplace]
  exact congrArg some (hunused d a b c)

theorem mnemonic_ne_pseudo : ∀ r ∈ opcodeTable, r.mnemonic ≠ "FSQR" ∧ r.mnemonic ≠ "PDBL" := by
  decide

theorem expandPseudo_of_ne {name : String} (ops : List (RegClass × Nat)) (hf : name ≠ "FSQR")
    (hp : name ≠ "PDBL") : expandPseudo name ops = (name, ops) := by
  unfold expandPseudo
  split
  · rw [if_neg hf, if_neg hp]
  · rfl

/-- Settles O8: the row with the command's mnemonic puts the operands back into the fields they came from;
FSQR and PDBL expand as `expandPseudo` writes them, and no row has another mnemonic. -/
theorem assemblerReadsCommandsAndPseudoInstructions :
    Obligations.AssemblerReadsCommandsAndPseudoInstructions := by
  refine ⟨fun cfg i hwf => ?_, fun _ _ _ => rfl, fun _ _ _ => rfl, fun cfg name ops hf hp hne => ?_⟩
  · obtain ⟨r, hr, d, a, b, c, rfl⟩ := exists_row_build i
    obtain ⟨hf, hp⟩ := mnemonic_ne_pseudo r hr
    rw [(opcodeTable_faithful r hr).mnemonic, assemble, expandPseudo_of_ne _ hf hp]
    simp only [find_mnemonic hr]
    exact assemble_build hr hwf
  · have hnone : opcodeTable.find? (fun r => r.mnemonic = name) = none := by simpa using hne
    simp only [assemble, expandPseudo_of_ne ops hf hp, hnone]

/-- Settles O1: the decoder is run on the eleven words. -/
theorem sampleWordsDecode : Obligations.SampleWordsDecode := by
  unfold Obligations.SampleWordsDecode
  decide

end Sys2Proof

/-! PROOF. The statements of 40_field.md: what the field commands write, and the laws of the field functions
(O39 to O45, O54 to O56). -/

namespace Sys2Proof.Machine

/-! ## Subtraction, inverse and quotient (R123, R125, R126) -/

section FieldFunctions
variable {mode : Div0Mode} {a b x : Felt} {p n : Nat}

/-- R123: the subtraction gives the residue of the exact difference. -/
theorem fSub_eq_emod (hp : a.prime = b.prime) (ha : a.inner < a.prime) (hb : b.inner < b.prime) :
    fSub a b = ⟨(((a.inner : Int) - b.inner) % a.prime).toNat, a.prime⟩ := by
  rw [fSub, ← subMod_eq_emod ha (hp ▸ hb), Int.toNat_natCast]

/-- R125: where DIV0_MODE lets the element be inverted, the inverse is the exact power, reduced. -/
theorem fInv_eq_pow (h : b.inner ≠ 0 ∨ mode = .referenceFormula) :
    fInv mode b = .ok ⟨b.inner ^ (b.prime - 2) % b.prime, b.prime⟩ := by
  unfold fInv
  rw [invMod_eq]
  rcases h with h | rfl
  · rw [if_pos h]
  · exact ite_self _

/-- R126: where DIV0_MODE lets the divisor divide, the quotient is the exact product with the power,
reduced. -/
theorem fDiv_eq_mul_pow (hp : a.prime = b.prime) (h : b.inner ≠ 0 ∨ mode = .referenceFormula) :
    fDiv mode a b = .ok ⟨a.inner * b.inner ^ (b.prime - 2) % a.prime, a.prime⟩ := by
  simp [fDiv, fInv_eq_pow h, mulMod, reduce, hp]

/-- R125: over a prime the inverse of a nonzero residue multiplies with it to 1. -/
theorem mulMod_invMod (hp : p.Prime) (hn : n < p) (h0 : n ≠ 0) : mulMod p n (invMod p n) = 1 := by
  have : Fact p.Prime := ⟨hp⟩
  have hne : (n : ZMod p) ≠ 0 := by
    rw [← Nat.cast_zero, Ne, cast_inj_of_lt hn hp.pos]
    exact h0
  rw [← cast_inj_of_lt (mulMod_lt hp.pos) hp.one_lt, cast_mulMod, cast_invMod hne,
    mul_inv_cancel₀ hne, Nat.cast_one]

/-! ## The laws of sum and product (R139) -/

theorem addMod_comm (p a b : Nat) : addMod p a b = addMod p b a := by rw [addMod, addMod, Nat.add_comm]

theorem addMod_assoc (p a b c : Nat) :
    addMod p (addMod p a b) c = addMod p a (addMod p b c) := by
  simp [addMod, reduce, Nat.add_assoc]

theorem mulMod_addMod (p a b c : Nat) :
    mulMod p a (addMod p b c) = addMod p (mulMod p a b) (mulMod p a c) := by
  simp [addMod, mulMod, reduce, Nat.mul_add]

/-! ## Powers (R127, R128) -/

/-- R127: the exact power with the reduced exponent, reduced. -/
theorem fPowU_eq (m : PowuReduction) (x : Felt) (k : Nat) :
    fPowU m x k = ⟨x.inner ^ reduceExponent m x.prime k % x.prime, x.prime⟩ := by
  rw [fPowU, powMod_eq]

variable {e : Int}

theorem fPowS_of_pos (he : 0 < e) :
    fPowS mode x e = .ok ⟨x.inner ^ e.toNat % x.prime, x.prime⟩ := by
  rw [fPowS, if_pos he, powMod_eq]

theorem fPowS_zero : fPowS mode x 0 = .ok ⟨1, x.prime⟩ := rfl

theorem fPowS_of_neg (he : e < 0) (h : x.inner ≠ 0 ∨ mode = .referenceFormula) :
    fPowS mode x e = .ok ⟨x.inner ^ negExponent x.prime e % x.prime, x.prime⟩ := by
  have hok : ¬ (x.inner = 0 ∧ mode = .fault) := by
    rintro ⟨h0, rfl⟩
    simp [h0] at h
  rw [fPowS, if_neg (by omega), if_neg (by omega), if_neg hok, powMod_eq]

/-- R128: `E` is the residue of the exponent modulo `p - 1`. -/
theorem cast_negExponent (hp : 2 ≤ p) (e : Int) : (negExponent p e : Int) = e % ((p : Int) - 1) :=
  Int.toNat_of_nonneg (Int.emod_nonneg e (by omega))

theorem negExponent_le (hp : 2 ≤ p) (e : Int) : negExponent p e ≤ p - 2 := by
  have hlt : e % ((p : Int) - 1) < (p : Int) - 1 := Int.emod_lt_of_pos e (by omega)
  rw [← cast_negExponent hp] at hlt
  omega

end FieldFunctions

/-! ## Signed exponents (R7) -/

section Signed
variable {w k : Nat}

/-- R7: the sign bit of a W-bit pattern is set when the pattern is at least `2^(W-1)`. -/
theorem signedOf_eq_signed (hw : 0 < w) (hk : k < 2 ^ w) : signedOf w k = Claims.signed w k := by
  rw [signedOf, Claims.signed]
  by_cases hlow : k < 2 ^ (w - 1)
  · simp [Nat.testBit_lt_two_pow hlow, hlow]
  · have hhigh : k < 2 ^ (w - 1 + 1) := by rwa [Nat.sub_add_cancel hw]
    simp [Nat.testBit_of_two_pow_le_and_two_pow_add_one_gt (Nat.le_of_not_lt hlow) hhigh, hlow]

/-- R7: a pattern with a positive value is that value. -/
theorem signed_of_pos (hk : k < 2 ^ w) (h : 0 < Claims.signed w k) : Claims.signed w k = k := by
  rw [Claims.signed] at h ⊢
  split_ifs at h ⊢
  · rfl
  · have : (k : Int) < 2 ^ w := by exact_mod_cast hk
    omega

end Signed

/-! ## The operands of the field commands (R8, R28) -/

section Commands
variable {s : State} {rd rs1 rs2 : RegIdx} {a b x v : Felt} {k : Nat} {e : Int}

theorem twoFelts_of_hasF (ha : s.HasF rs1 a) (hb : s.HasF rs2 b) (hp : a.prime = b.prime) :
    twoFelts s rs1 rs2 = .ok (a, b) :=
  twoFelts_eq_ok.2 ⟨State.readF_eq_ok.2 ha, State.readF_eq_ok.2 hb, hp⟩

theorem feltAndUnsigned_of_hasS (hx : s.HasF rs1 x) (hk : s.HasS rs2 k) :
    feltAndUnsigned s rs1 rs2 = .ok (x, k) :=
  feltAndUnsigned_eq_ok.2 ⟨State.readF_eq_ok.2 hx, State.readS_eq_ok.2 hk⟩

theorem feltAndSigned_of_hasS (hs : s.Inv) (hx : s.HasF rs1 x) (hk : s.HasS rs2 k) :
    feltAndSigned s rs1 rs2 = .ok (x, Claims.signed s.cfg.w k) := by
  have hread : s.readS rs2 = .ok k := State.readS_eq_ok.2 hk
  obtain ⟨-, hw, -⟩ := hs.legal
  exact feltAndSigned_eq_ok.2 ⟨State.readF_eq_ok.2 hx, k, hread,
    (signedOf_eq_signed (by omega) (hs.scalar_lt hread)).symm⟩

/-! ## The commit of each field command (R129 to R138) -/

/-- R8, R70: the next state of a command that writes one field element. -/
theorem commit_writeF (s : State) (rd : RegIdx) (v : Felt) :
    commit s (.ok (s.writeF rd v)) = .next { s with
      fregs := s.fregs.set rd.toNat (some v), busy := false, done := true } := rfl

theorem exec_fadd (h : twoFelts s rs1 rs2 = .ok (a, b)) :
    exec (.fadd rd rs1 rs2) s = commit s (.ok (s.writeF rd (fAdd a b))) := by
  simp only [exec, execFadd, h, ok_bind]

theorem exec_fsub (h : twoFelts s rs1 rs2 = .ok (a, b)) :
    exec (.fsub rd rs1 rs2) s = commit s (.ok (s.writeF rd (fSub a b))) := by
  simp only [exec, execFsub, h, ok_bind]

theorem exec_fmul (h : twoFelts s rs1 rs2 = .ok (a, b)) :
    exec (.fmul rd rs1 rs2) s = commit s (.ok (s.writeF rd (fMul a b))) := by
  simp only [exec, execFmul, h, ok_bind]

theorem exec_fdiv (h : twoFelts s rs1 rs2 = .ok (a, b)) (hv : fDiv s.cfg.div0Mode a b = .ok v) :
    exec (.fdiv rd rs1 rs2) s = commit s (.ok (s.writeF rd v)) := by
  simp only [exec, execFdiv, h, hv, ok_bind]

theorem exec_finv (h : s.readF rs1 = .ok b) (hv : fInv s.cfg.div0Mode b = .ok v) :
    exec (.finv rd rs1) s = commit s (.ok (s.writeF rd v)) := by
  simp only [exec, execFinv, h, hv, ok_bind]

theorem exec_fpowu (h : feltAndUnsigned s rs1 rs2 = .ok (x, k)) :
    exec (.fpowu rd rs1 rs2) s =
      commit s (.ok (s.writeF rd (fPowU s.cfg.powuReduction x k))) := by
  simp only [exec, execFpowu, h, ok_bind]

theorem exec_fpows (h : feltAndSigned s rs1 rs2 = .ok (x, e))
    (hv : fPowS s.cfg.div0Mode x e = .ok v) :
    exec (.fpows rd rs1 rs2) s = commit s (.ok (s.writeF rd v)) := by
  simp only [exec, execFpows, h, hv, ok_bind]

end Commands

/-! ## What each field command writes (R129 to R138) -/

/-- Settles O41: the sum and the product are reduced once, and the two branches of the difference are its
residue. -/
theorem faddFsubFmulWriteExactResults : Obligations.FaddFsubFmulWriteExactResults := by
  intro s rd rs1 rs2 a b hs ha hb hp
  have hread := twoFelts_of_hasF ha hb hp
  have hla : a.inner < a.prime := (hs.felt_ok (State.readF_eq_ok.2 ha)).inner_lt
  have hlb : b.inner < b.prime := (hs.felt_ok (State.readF_eq_ok.2 hb)).inner_lt
  rw [exec_fadd hread, exec_fsub hread, exec_fmul hread, fSub_eq_emod hp hla hlb]
  exact ⟨commit_writeF _ _ _, commit_writeF _ _ _, commit_writeF _ _ _⟩

/-- Settles O42: the divisor may be inverted, and the inverse and the quotient are the exact formulas. -/
theorem fdivAndFinvWriteTheFormula : Obligations.FdivAndFinvWriteTheFormula := by
  intro s rd rs1 rs2 a b hdiv
  refine ⟨fun ha hb hp => ?_, fun hb => ?_⟩
  · rw [exec_fdiv (twoFelts_of_hasF ha hb hp) (fDiv_eq_mul_pow hp hdiv), commit_writeF]
  · rw [exec_finv (State.readF_eq_ok.2 hb) (fInv_eq_pow hdiv), commit_writeF]

/-- Settles O43: the exponent is the one POWU_REDUCTION gives, and the power is exact. -/
theorem fpowuWritesPowerByReduction : Obligations.FpowuWritesPowerByReduction := by
  intro s rd rs1 rs2 x k hx hk
  rw [exec_fpowu (feltAndUnsigned_of_hasS hx hk), fPowU_eq, commit_writeF]
  rfl

/-- Settles O44: one case per sign of the exponent. -/
theorem fpowsWritesPowerBySign : Obligations.FpowsWritesPowerBySign := by
  intro s rd rs1 rs2 x k hs hx hk
  have hread := feltAndSigned_of_hasS hs hx hk
  refine ⟨fun hpos => ?_, fun hzero => ?_, fun hneg hdiv => ?_⟩
  · rw [exec_fpows hread (fPowS_of_pos hpos), commit_writeF,
      signed_of_pos (hs.scalar_lt (State.readS_eq_ok.2 hk)) hpos, Int.toNat_natCast]
  · rw [hzero] at hread
    rw [exec_fpows hread fPowS_zero, commit_writeF]
  · obtain ⟨hp, -, -⟩ := hs.felt_ok (State.readF_eq_ok.2 hx)
    refine ⟨_, negExponent_le hp _, cast_negExponent hp _, ?_⟩
    rw [exec_fpows hread (fPowS_of_neg hneg hdiv), commit_writeF]

/-- Settles O39: the modulus and the residue pass the two checks of FNEW. -/
theorem fnewWritesElement : Obligations.FnewWritesElement := by
  intro s rd h2 hlt
  have hnew : newFelt s.dataA s.dataB = .ok ⟨s.dataA, s.dataB⟩ := newFelt_eq_ok.2 ⟨h2, hlt, rfl⟩
  simp only [exec, execFnew, hnew, ok_bind, commit_writeF]

/-- Settles O40: the register is read, and both buffers take its parts. -/
theorem frdWritesBuffers : Obligations.FrdWritesBuffers := by
  intro s rs1 v hv
  have hread : s.readF rs1 = .ok v := State.readF_eq_ok.2 hv
  simp only [exec, execFrd, hread, ok_bind, commit_ok]
  rfl

/-- Settles O45: both elements are read, they are over one prime, and T takes their comparison. -/
theorem feqWritesTestFlag : Obligations.FeqWritesTestFlag := by
  intro s rs1 rs2 a b ha hb hp
  have heq : feltEq a b = if a.inner = b.inner then true else false := by simp [feltEq]
  simp only [exec, execFeq, twoFelts_of_hasF ha hb hp, ok_bind, commit_ok, heq]
  rfl

/-! ## Laws of the field (R123, R125, R139) -/

/-- Settles O54: the laws hold of the residues; FRD reads the register FNEW wrote. -/
theorem fieldLawsOverPrimes : Obligations.FieldLawsOverPrimes := by
  refine ⟨?_, fun s r h2 hlt hr => ?_⟩
  · rintro ⟨a, _⟩ ⟨b, _⟩ ⟨c, p⟩ hprime rfl rfl ha - -
    refine ⟨?_, ?_, ?_, fun h0 mode => ?_⟩
    · exact congrArg (Felt.mk · p) (addMod_comm p a b)
    · exact congrArg (Felt.mk · p) (addMod_assoc p a b c)
    · exact congrArg (Felt.mk · p) (mulMod_addMod p a b c)
    · rw [fDiv_of_ne_zero mode p a h0, divMod, mulMod_invMod hprime ha h0]
  · exact ⟨_, _, fnewWritesElement s r h2 hlt,
      frdWritesBuffers _ r ⟨s.dataA, s.dataB⟩ (writeReg_getElem?_same hr), rfl, rfl⟩

/-- Settles O55: the branches are those of the definition, and both give the residue of the difference. -/
theorem subtractionNeverUnderflows : Obligations.SubtractionNeverUnderflows :=
  fun _ _ hp ha hb => ⟨rfl, subMod_eq_emod ha (hp ▸ hb), subMod_lt ha⟩

/-- Settles O56: a nonzero residue is inverted in either mode, and the inverse multiplies with it to 1. -/
theorem inverseMultipliesToOne : Obligations.InverseMultipliesToOne := by
  intro mode b hp hlt h0
  refine ⟨_, fInv_eq_pow (.inl h0), rfl, ?_⟩
  rw [← invMod_eq]
  exact mulMod_invMod hp hlt h0

end Sys2Proof.Machine

/-! PROOF. The statements of 41_curve_point.md: what the curve and point commands write, the group law of R175
in exact integers, and its laws over a prime (O47 to O49, O51, O57 to O59). -/

namespace Sys2Proof.Machine

/-! ## Residues over any modulus (R123, R126) -/

section AnyModulus
variable {p a b : Nat}

/-- A residue that equals an integer in `ZMod p` is the integer, reduced. -/
theorem residue_eq_emod {z : Int} (ha : a < p) (h : (a : ZMod p) = z) : (a : Int) = z % p := by
  rw [← Int.cast_natCast, ZMod.intCast_eq_intCast_iff'] at h
  rwa [Int.emod_eq_of_lt (by omega) (by omega)] at h

/-- R123: the difference of residues, in exact integers. -/
theorem subMod_eq_toNat (ha : a < p) (hb : b < p) : subMod p a b = (((a : Int) - b) % p).toNat :=
  congrArg Felt.inner (fSub_eq_emod (a := ⟨a, p⟩) (b := ⟨b, p⟩) rfl ha hb)

/-- R123: the difference of distinct residues is not 0. -/
theorem subMod_ne_zero (hb : b < p) (hne : a ≠ b) : subMod p a b ≠ 0 := by
  unfold subMod
  split <;> omega

/-- R126: the quotient is the product with the power. -/
theorem cast_divMod_eq_mul_pow : ((divMod p a b : Nat) : ZMod p) = a * b ^ (p - 2) := by
  simp [divMod_eq]

/-- Opposite residues are those with a sum that is reduced to 0. -/
theorem reduce_add_eq_zero_iff : reduce (a + b) p = 0 ↔ (a : ZMod p) = -b := by
  rw [eq_neg_iff_add_eq_zero, ← Nat.cast_add, ZMod.natCast_eq_zero_iff, Nat.dvd_iff_mod_eq_zero, reduce]

end AnyModulus

/-! ## The rules of the group law (R175) -/

section Rules
variable {e e' : CurveRec} {P : PointVal} {x1 y1 x2 y2 : Nat}

/-- R175 rule 2: the Identity is neutral on the right, on the points of its curve. -/
theorem pointAdd_ident (h : P.curve = e) : pointAdd P (.ident e) = P := by
  cases P with
  | ident _ => exact congrArg PointVal.ident h.symm
  | affine _ _ _ => rfl

/-- R175 rule 3: opposite points have the Identity as their sum. -/
theorem pointAdd_opposite (h : x1 = x2 ∧ (y1 ≠ y2 ∨ reduce (y1 + y2) e.p = 0)) :
    pointAdd (.affine e x1 y1) (.affine e' x2 y2) = .ident e := if_pos h

/-- R175 rule 4: a point that is not its own opposite is doubled. -/
theorem pointAdd_double (hy : reduce (y1 + y1) e.p ≠ 0) :
    pointAdd (.affine e x1 y1) (.affine e' x1 y1) = doublePoint e x1 y1 := by
  simp [pointAdd, hy]

/-- R175 rule 5: two points with different `x` are added by their chord. -/
theorem pointAdd_chord (hx : x1 ≠ x2) :
    pointAdd (.affine e x1 y1) (.affine e' x2 y2) = chordPoint e x1 y1 x2 y2 := by
  simp [pointAdd, hx]

/-- R175: points with one `x` to which rule 3 does not apply are one point, not its own opposite. -/
theorem same_of_not_opposite (h : ¬ (x1 = x2 ∧ (y1 ≠ y2 ∨ reduce (y1 + y2) e.p = 0))) (hx : x1 = x2) :
    y1 = y2 ∧ reduce (y1 + y1) e.p ≠ 0 := by
  obtain ⟨hy, hne⟩ : y1 = y2 ∧ reduce (y1 + y2) e.p ≠ 0 := by simpa [hx] using h
  exact ⟨hy, hy ▸ hne⟩

/-- R175 rule 4: the slope of the tangent, with numerator and divisor in exact integers. -/
theorem tangentSlope_eq : tangentSlope e x1 y1 =
    divMod e.p ((3 * x1 ^ 2 + e.a) % e.p) (2 * y1 % e.p) := by
  simp [tangentSlope, addMod, mulMod, reduce, sq]

end Rules

/-- Settles O57: where rule 3 does not apply, the divisor of the tangent or the chord is not 0, and FDiv by it
gives the slope. -/
theorem groupLawNeverDividesByZero : Obligations.GroupLawNeverDividesByZero := by
  intro mode e x1 y1 x2 y2 hx1 hy1 hx2 hy2 hinv
  refine ⟨?_, fun hx => ⟨pointAdd_chord hx, ?_⟩⟩
  · rintro rfl
    obtain ⟨rfl, hy⟩ := same_of_not_opposite hinv rfl
    have hdiv : 2 * y1 % e.p ≠ 0 := by rwa [two_mul]
    exact ⟨pointAdd_double hy, by rw [fDiv_of_ne_zero mode _ _ hdiv, tangentSlope_eq]⟩
  · rw [← subMod_eq_toNat hy2 hy1, ← subMod_eq_toNat hx2 hx1,
      fDiv_of_ne_zero mode _ _ (subMod_ne_zero hx1 (Ne.symm hx)), chordSlope]

/-! ## The third point of a tangent and a chord (R175) -/

/-- R175 rule 4: the `x` of a double, `s^2 - 2*x1`. -/
def doubleX (p s x1 : Nat) : Nat := subMod p (mulMod p s s) (mulMod p 2 x1)

/-- R175 rule 5: the `x` of a chord's third point, `s^2 - x1 - x2`. -/
def chordX (p s x1 x2 : Nat) : Nat := subMod p (subMod p (mulMod p s s) x1) x2

section ThirdPoint
variable {e : CurveRec} {p x1 y1 x2 y2 x3 s : Nat}

theorem doublePoint_eq : doublePoint e x1 y1 =
    .affine e (doubleX e.p (tangentSlope e x1 y1) x1)
      (thirdY e.p (tangentSlope e x1 y1) x1 y1 (doubleX e.p (tangentSlope e x1 y1) x1)) := rfl

theorem chordPoint_eq : chordPoint e x1 y1 x2 y2 =
    .affine e (chordX e.p (chordSlope e x1 y1 x2 y2) x1 x2)
      (thirdY e.p (chordSlope e x1 y1 x2 y2) x1 y1 (chordX e.p (chordSlope e x1 y1 x2 y2) x1 x2)) := rfl

theorem doubleX_lt (hp : 0 < p) : doubleX p s x1 < p := subMod_lt (mulMod_lt hp)

theorem chordX_lt (hp : 0 < p) : chordX p s x1 x2 < p := subMod_lt (subMod_lt (mulMod_lt hp))

theorem cast_doubleX (hp : 0 < p) : ((doubleX p s x1 : Nat) : ZMod p) = s ^ 2 - 2 * x1 := by
  rw [doubleX, cast_subMod (mulMod_lt hp) (mulMod_lt hp), cast_mulMod, cast_mulMod, sq, Nat.cast_ofNat]

theorem cast_chordX (hx1 : x1 < p) (hx2 : x2 < p) :
    ((chordX p s x1 x2 : Nat) : ZMod p) = s ^ 2 - x1 - x2 := by
  have hp : 0 < p := Nat.zero_lt_of_lt hx1
  rw [chordX, cast_subMod (subMod_lt (mulMod_lt hp)) hx2, cast_subMod (mulMod_lt hp) hx1, cast_mulMod, sq]

/-- R175 rule 4: the slope of the tangent, in exact integers. -/
theorem tangentSlope_eq_emod (hp : 0 < e.p) : (tangentSlope e x1 y1 : Int) =
    (3 * (x1 : Int) ^ 2 + e.a) * ((2 * (y1 : Int)) % e.p) ^ (e.p - 2) % e.p := by
  refine residue_eq_emod (divMod_lt hp) ?_
  rw [tangentSlope_eq, cast_divMod_eq_mul_pow]
  simp

/-- R175 rule 5: the slope of the chord, in exact integers. -/
theorem chordSlope_eq_emod (hx1 : x1 < e.p) (hy1 : y1 < e.p) (hx2 : x2 < e.p) (hy2 : y2 < e.p) :
    (chordSlope e x1 y1 x2 y2 : Int) =
      ((y2 : Int) - y1) * (((x2 : Int) - x1) % e.p) ^ (e.p - 2) % e.p := by
  refine residue_eq_emod (divMod_lt (Nat.zero_lt_of_lt hx1)) ?_
  rw [chordSlope, cast_divMod_eq_mul_pow, cast_subMod hy2 hy1, cast_subMod hx2 hx1]
  simp

theorem doubleX_eq_emod (hp : 0 < p) : (doubleX p s x1 : Int) = ((s : Int) ^ 2 - 2 * x1) % p :=
  residue_eq_emod (doubleX_lt hp) (by simp [cast_doubleX hp])

theorem chordX_eq_emod (hx1 : x1 < p) (hx2 : x2 < p) :
    (chordX p s x1 x2 : Int) = ((s : Int) ^ 2 - x1 - x2) % p :=
  residue_eq_emod (chordX_lt (Nat.zero_lt_of_lt hx1)) (by simp [cast_chordX hx1 hx2])

theorem thirdY_eq_emod (hx1 : x1 < e.p) (hy1 : y1 < e.p) (hx3 : x3 < e.p) :
    (thirdY e.p s x1 y1 x3 : Int) = ((s : Int) * (x1 - x3) - y1) % e.p :=
  residue_eq_emod (thirdY_lt (Nat.zero_lt_of_lt hx1)) (by simp [cast_thirdY hx1 hy1 hx3])

/-- R175, in exact integers: the sum of two affine points of one curve, over any modulus. -/
theorem pointAdd_sumOfAffine (hx1 : x1 < e.p) (hy1 : y1 < e.p) (hx2 : x2 < e.p) (hy2 : y2 < e.p) :
    Claims.SumOfAffine e x1 y1 x2 y2 (pointAdd (.affine e x1 y1) (.affine e x2 y2)) := by
  have hp : 0 < e.p := Nat.zero_lt_of_lt hx1
  unfold Claims.SumOfAffine
  split_ifs with hinv hx
  · exact pointAdd_opposite hinv
  · subst hx
    obtain ⟨rfl, hy⟩ := same_of_not_opposite hinv rfl
    rw [pointAdd_double hy, doublePoint_eq]
    exact ⟨_, _, _, rfl, tangentSlope_eq_emod hp, doubleX_eq_emod hp,
      thirdY_eq_emod hx1 hy1 (doubleX_lt hp)⟩
  · rw [pointAdd_chord hx, chordPoint_eq]
    exact ⟨_, _, _, rfl, chordSlope_eq_emod hx1 hy1 hx2 hy2, chordX_eq_emod hx1 hx2,
      thirdY_eq_emod hx1 hy1 (chordX_lt hp)⟩

end ThirdPoint

/-! ## What each curve and point command writes (R170 to R179) -/

section Commands
variable {s : State} {rd rs1 rs2 : RegIdx} {P Q : PointVal}

/-- R8, R70: the next state of a command that writes one curve record. -/
theorem commit_writeC (s : State) (rd : RegIdx) (v : CurveRec) :
    commit s (.ok (s.writeC rd v)) = .next { s with
      cregs := s.cregs.set rd.toNat (some v), busy := false, done := true } := rfl

/-- R8, R70: the next state of a command that writes one point. -/
theorem commit_writeP (s : State) (rd : RegIdx) (v : PointVal) :
    commit s (.ok (s.writeP rd v)) = .next { s with
      pregs := s.pregs.set rd.toNat (some v), busy := false, done := true } := rfl

theorem twoPoints_of_hasP (hP : s.HasP rs1 P) (hQ : s.HasP rs2 Q) (h : P.curve = Q.curve) :
    twoPoints s rs1 rs2 = .ok (P, Q) :=
  twoPoints_eq_ok.2 ⟨State.readP_eq_ok.2 hP, State.readP_eq_ok.2 hQ, h⟩

theorem exec_padd (h : twoPoints s rs1 rs2 = .ok (P, Q)) :
    exec (.padd rd rs1 rs2) s = commit s (.ok (s.writeP rd (pointAdd P Q))) := by
  simp only [exec, execPadd, h, ok_bind]

/-- R171: the on-curve predicate is the curve equation in exact powers, reduced. -/
theorem onCurve_iff {e : CurveRec} {x y : Nat} :
    onCurve e x y = true ↔ y ^ 2 % e.p = (x ^ 3 + e.a * x + e.b) % e.p := by
  rw [onCurve, decide_eq_true_iff, reduce, reduce, ← sq, ← sq, ← pow_succ]

end Commands

/-- Settles O47: two coefficients over one prime pass the one check of CNEW. -/
theorem cnewWritesCurveRecord : Obligations.CnewWritesCurveRecord := by
  intro s rd rs1 rs2 a b ha hb hp
  simp only [exec, execCnew, twoFelts_of_hasF ha hb hp, ok_bind, commit_writeC]

/-- Settles O48: the coordinates are over the curve's prime and pass the check of PNEW; PID has no check. -/
theorem pnewAndPidWritePoints : Obligations.PnewAndPidWritePoints := by
  intro s rd rs1 rs2 rs3 e x y he
  have hcurve : s.readC rs1 = .ok e := State.readC_eq_ok.2 he
  refine ⟨fun hx hy heq => ?_, ?_⟩
  · have hread : curveAndCoordinates s rs1 rs2 rs3 = .ok (e, x, y) :=
      curveAndCoordinates_eq_ok.2 ⟨hcurve, State.readF_eq_ok.2 hx, State.readF_eq_ok.2 hy⟩
    simp only [exec, execPnew, hread, ok_bind, onCurve_iff.2 heq, if_true, commit_writeP]
  · simp only [exec, execPid, hcurve, ok_bind, commit_writeP]

/-- Settles O51: an affine point has coordinates, over its curve's prime. -/
theorem pgetxAndPgetyWriteCoordinates : Obligations.PgetxAndPgetyWriteCoordinates := by
  intro s rd rs1 e x y hP
  have hread : s.readP rs1 = .ok (.affine e x y) := State.readP_eq_ok.2 hP
  refine ⟨?_, ?_⟩
  · simp only [exec, execPgetx, hread, coordinates, ok_bind, commit_writeF]
  · simp only [exec, execPgety, hread, coordinates, ok_bind, commit_writeF]

/-- Settles O49: the sum is `pointAdd` of the two points: the Identity is neutral, and affine points add by the
rules in exact integers. -/
theorem paddFollowsGroupLaw : Obligations.PaddFollowsGroupLaw := by
  intro s rd rs1 rs2 P Q hs hP hQ hcurve
  refine ⟨pointAdd P Q, ?_, ?_, ?_, ?_⟩
  · rw [exec_padd (twoPoints_of_hasP hP hQ hcurve), commit_writeP]
  · rintro e rfl
    rfl
  · rintro e rfl
    exact pointAdd_ident hcurve
  · rintro e x1 y1 x2 y2 rfl rfl
    obtain ⟨-, hx1, hy1⟩ := hs.point_ok (State.readP_eq_ok.2 hP)
    obtain ⟨-, hx2, hy2⟩ := hs.point_ok (State.readP_eq_ok.2 hQ)
    exact pointAdd_sumOfAffine hx1 hy1 hx2 hy2

/-! ## Tangent and chord are the addition of the Weierstrass curve (R175) -/

section Curve
variable {e : CurveRec} {x1 y1 x2 y2 : Nat}

/-- A reduced affine point is given by its coordinates in `ZMod p`. -/
theorem affine_eq_val {x y : Nat} {u v : ZMod e.p} (hx : x < e.p) (hy : y < e.p) (hu : (x : ZMod e.p) = u)
    (hv : (y : ZMod e.p) = v) : PointVal.affine e x y = .affine e u.val v.val := by
  rw [← hu, ← hv, ZMod.val_cast_of_lt hx, ZMod.val_cast_of_lt hy]

variable [Fact e.p.Prime]

theorem doublePoint_eq_val (hx1 : x1 < e.p) (hy1 : y1 < e.p) (hy : (y1 : ZMod e.p) ≠ -y1) :
    doublePoint e x1 y1 = .affine e
      (e.weierstrass.addX x1 x1 (e.weierstrass.slope x1 x1 y1 y1)).val
      (e.weierstrass.addY x1 x1 y1 (e.weierstrass.slope x1 x1 y1 y1)).val := by
  have hp : 0 < e.p := Nat.zero_lt_of_lt hx1
  have hs := cast_tangentSlope (x1 := x1) hy
  have hx3 : ((doubleX e.p (tangentSlope e x1 y1) x1 : Nat) : ZMod e.p) =
      e.weierstrass.addX x1 x1 (e.weierstrass.slope x1 x1 y1 y1) := by
    rw [cast_doubleX hp, hs, weierstrass_addX]
    ring
  rw [doublePoint_eq]
  refine affine_eq_val (doubleX_lt hp) (thirdY_lt hp) hx3 ?_
  rw [cast_thirdY hx1 hy1 (doubleX_lt hp), hx3, hs, weierstrass_addY]

theorem chordPoint_eq_val (hx1 : x1 < e.p) (hy1 : y1 < e.p) (hx2 : x2 < e.p) (hy2 : y2 < e.p)
    (hx : (x1 : ZMod e.p) ≠ x2) :
    chordPoint e x1 y1 x2 y2 = .affine e
      (e.weierstrass.addX x1 x2 (e.weierstrass.slope x1 x2 y1 y2)).val
      (e.weierstrass.addY x1 x2 y1 (e.weierstrass.slope x1 x2 y1 y2)).val := by
  have hp : 0 < e.p := Nat.zero_lt_of_lt hx1
  have hs := cast_chordSlope hx1 hy1 hx2 hy2 hx
  have hx3 : ((chordX e.p (chordSlope e x1 y1 x2 y2) x1 x2 : Nat) : ZMod e.p) =
      e.weierstrass.addX x1 x2 (e.weierstrass.slope x1 x2 y1 y2) := by
    rw [cast_chordX hx1 hx2, hs, weierstrass_addX]
  rw [chordPoint_eq]
  refine affine_eq_val (chordX_lt hp) (thirdY_lt hp) hx3 ?_
  rw [cast_thirdY hx1 hy1 (chordX_lt hp), hx3, hs, weierstrass_addY]

/-- R180: the chord of two points is the same in either order: one line passes through both. -/
theorem chordPoint_comm (hx1 : x1 < e.p) (hy1 : y1 < e.p) (hx2 : x2 < e.p) (hy2 : y2 < e.p)
    (hx : x1 ≠ x2) : chordPoint e x1 y1 x2 y2 = chordPoint e x2 y2 x1 y1 := by
  have hne : (x1 : ZMod e.p) ≠ x2 := (cast_inj_of_lt hx1 hx2).not.2 hx
  have hs : e.weierstrass.slope x2 x1 y2 y1 = e.weierstrass.slope x1 x2 y1 y2 := by
    rw [WeierstrassCurve.Affine.slope_of_X_ne hne, WeierstrassCurve.Affine.slope_of_X_ne hne.symm,
      ← neg_sub, ← neg_sub (x1 : ZMod e.p), neg_div_neg_eq]
  have hline : e.weierstrass.slope x1 x2 y1 y2 * (x1 - x2) = y1 - y2 := by
    rw [WeierstrassCurve.Affine.slope_of_X_ne hne, div_mul_cancel₀ _ (sub_ne_zero.2 hne)]
  rw [chordPoint_eq_val hx1 hy1 hx2 hy2 hne, chordPoint_eq_val hx2 hy2 hx1 hy1 hne.symm, hs]
  congr 2
  · simp only [weierstrass_addX]
    ring
  · simp only [weierstrass_addY, weierstrass_addX]
    linear_combination hline

end Curve

/-- Settles O58: the rules for the Identity, for opposites and for one point are symmetric, and so is the
chord. -/
theorem pointAdditionCommutesOverPrimes : Obligations.PointAdditionCommutesOverPrimes := by
  rintro e P Q hp ⟨hPe, hPr, -⟩ ⟨hQe, hQr, -⟩
  have : Fact e.p.Prime := ⟨hp⟩
  cases P with
  | ident _ => exact (pointAdd_ident (hQe.trans hPe.symm)).symm
  | affine e1 x1 y1 =>
    cases Q with
    | ident _ => exact pointAdd_ident (hPe.trans hQe.symm)
    | affine e2 x2 y2 =>
      obtain rfl : e1 = e := hPe
      obtain rfl : e2 = e1 := hQe
      by_cases hx : x1 = x2
      · subst hx
        by_cases hy : y1 = y2
        · rw [hy]
        · rw [pointAdd_opposite ⟨rfl, .inl hy⟩, pointAdd_opposite ⟨rfl, .inl (Ne.symm hy)⟩]
      · rw [pointAdd_chord hx, pointAdd_chord (Ne.symm hx),
          chordPoint_comm hPr.1 hPr.2 hQr.1 hQr.2 hx]

/-! ## The group of a non-singular curve (R180) -/

/-- The point value that stands for a point of the Weierstrass curve. -/
def pointOf (e : CurveRec) : e.weierstrass.Point → PointVal
  | .zero => .ident e
  | .some x y _ => .affine e x.val y.val

section NonSingular
variable {e : CurveRec} {u u1 u2 v v1 v2 : ZMod e.p} [Fact e.p.Prime]

/-- R180: over a prime greater than 3 the discriminant `-16*(4*a^3 + 27*b^2)` of a non-singular curve is
not 0. -/
theorem weierstrass_discriminant_ne_zero (h3 : 3 < e.p) (hns : e.NonSingular) : e.weierstrass.Δ ≠ 0 := by
  have hshort : e.weierstrass.IsShortNF := ⟨rfl, rfl, rfl⟩
  have h2 : ((2 : Nat) : ZMod e.p) ≠ (0 : Nat) := (cast_inj_of_lt (by omega) (by omega)).not.2 two_ne_zero
  have h16 : (-16 : ZMod e.p) ≠ 0 := by
    rw [show (-16 : ZMod e.p) = -2 ^ 4 by norm_num]
    exact neg_ne_zero.2 (pow_ne_zero 4 (by exact_mod_cast h2))
  have hsum : (4 * e.a ^ 3 + 27 * e.b ^ 2 : ZMod e.p) ≠ 0 := fun h =>
    hns (Nat.mod_eq_zero_of_dvd ((ZMod.natCast_eq_zero_iff _ _).1 (by exact_mod_cast h)))
  rw [WeierstrassCurve.Δ_of_isShortNF]
  exact mul_ne_zero h16 hsum

/-- R180: every point of a non-singular curve over a prime greater than 3 stands for a point of the group. -/
theorem exists_pointOf (h3 : 3 < e.p) (hns : e.NonSingular) {P : PointVal} (hP : Claims.PointOver e P) :
    ∃ A, pointOf e A = P := by
  obtain ⟨hcurve, hred, hon⟩ := hP
  cases P with
  | ident _ => exact ⟨.zero, congrArg PointVal.ident hcurve.symm⟩
  | affine e' x y =>
    obtain rfl : e' = e := hcurve
    have hpt := (WeierstrassCurve.Affine.equation_iff_nonsingular_of_Δ_ne_zero
      (weierstrass_discriminant_ne_zero h3 hns)).1 (onCurve_iff_equation.1 hon)
    exact ⟨.some _ _ hpt, (affine_eq_val hred.1 hred.2 rfl rfl).symm⟩

theorem pointAdd_val_opposite (hv : v1 = -v2) :
    pointAdd (.affine e u.val v1.val) (.affine e u.val v2.val) = .ident e :=
  pointAdd_opposite ⟨rfl, .inr (reduce_add_eq_zero_iff.2 (by simpa using hv))⟩

theorem pointAdd_val_double (hv : v ≠ -v) :
    pointAdd (.affine e u.val v.val) (.affine e u.val v.val) = .affine e
      (e.weierstrass.addX u u (e.weierstrass.slope u u v v)).val
      (e.weierstrass.addY u u v (e.weierstrass.slope u u v v)).val := by
  have hne : (v.val : ZMod e.p) ≠ -v.val := by rwa [ZMod.natCast_zmod_val]
  rw [pointAdd_double (reduce_add_eq_zero_iff.not.2 hne),
    doublePoint_eq_val (ZMod.val_lt u) (ZMod.val_lt v) hne]
  simp only [ZMod.natCast_zmod_val]

theorem pointAdd_val_chord (hu : u1 ≠ u2) :
    pointAdd (.affine e u1.val v1.val) (.affine e u2.val v2.val) = .affine e
      (e.weierstrass.addX u1 u2 (e.weierstrass.slope u1 u2 v1 v2)).val
      (e.weierstrass.addY u1 u2 v1 (e.weierstrass.slope u1 u2 v1 v2)).val := by
  rw [pointAdd_chord ((ZMod.val_injective e.p).ne hu),
    chordPoint_eq_val (ZMod.val_lt u1) (ZMod.val_lt v1) (ZMod.val_lt u2) (ZMod.val_lt v2) (by simpa using hu)]
  simp only [ZMod.natCast_zmod_val]

/-- R175: point addition is the addition of the curve's group. -/
theorem pointAdd_pointOf (A B : e.weierstrass.Point) :
    pointAdd (pointOf e A) (pointOf e B) = pointOf e (A + B) := by
  cases A with
  | zero => exact congrArg (pointOf e) (zero_add B).symm
  | some u1 v1 h1 =>
    cases B with
    | zero => rfl
    | some u2 v2 h2 =>
      by_cases hopp : u1 = u2 ∧ v1 = e.weierstrass.negY u2 v2
      · obtain ⟨rfl, hv⟩ := hopp
        rw [WeierstrassCurve.Affine.Point.add_of_Y_eq rfl hv]
        exact pointAdd_val_opposite (hv.trans (weierstrass_negY _ _))
      · rw [WeierstrassCurve.Affine.Point.add_some hopp]
        by_cases hu : u1 = u2
        · subst hu
          have hne : v1 ≠ e.weierstrass.negY u1 v2 := fun h => hopp ⟨rfl, h⟩
          obtain rfl := WeierstrassCurve.Affine.Y_eq_of_Y_ne h1.1 h2.1 rfl hne
          exact pointAdd_val_double (by rwa [weierstrass_negY] at hne)
        · exact pointAdd_val_chord hu

end NonSingular

/-- Settles O59: point addition is the addition of the group of the curve's points, which is associative. -/
theorem pointAdditionAssociatesOnNonsingularCurves :
    Obligations.PointAdditionAssociatesOnNonsingularCurves := by
  intro e P Q R hp h3 hns hP hQ hR
  have : Fact e.p.Prime := ⟨hp⟩
  obtain ⟨A, rfl⟩ := exists_pointOf h3 hns hP
  obtain ⟨B, rfl⟩ := exists_pointOf h3 hns hQ
  obtain ⟨C, rfl⟩ := exists_pointOf h3 hns hR
  simp only [pointAdd_pointOf, add_assoc]

end Sys2Proof.Machine

/-! PROOF. The statements of 42_scalar_mult.md: what the scalar and scalar-multiplication commands write, and
that the two algorithms agree on a non-singular curve (O46, O52, O53, O60). -/

namespace Sys2Proof.Machine

/-! ## The two algorithms as an iteration and as a fold over the bits (R212, R213) -/

theorem addRepeatedly_eq_iterate (P : PointVal) (n : Nat) (acc : PointVal) :
    addRepeatedly P n acc = (fun acc => pointAdd acc P)^[n] acc := by
  induction n generalizing acc with
  | zero => rfl
  | succ n ih => exact ih (pointAdd acc P)

theorem mulNaive_eq_iterate (P : PointVal) (k : Nat) :
    mulNaive P k = if k = 0 then .ident P.curve else (fun acc => pointAdd acc P)^[k - 1] P := by
  rw [mulNaive, addRepeatedly_eq_iterate]

/-- R213: with enough rounds, the loop takes the bits of the scalar one by one, the lowest first. -/
theorem doubleAndAdd_eq_foldl (fuel : Nat) (r c : PointVal) (k : Nat) (hk : k < 2 ^ fuel) :
    doubleAndAdd fuel r c k = ((Nat.digits 2 k).foldl Claims.binaryRound (r, c)).1 := by
  induction fuel generalizing r c k with
  | zero =>
    obtain rfl : k = 0 := by simpa using hk
    simp [doubleAndAdd]
  | succ fuel ih =>
    by_cases h0 : k = 0
    · simp [doubleAndAdd, h0]
    · rw [doubleAndAdd, if_neg h0, ih _ _ _ (by omega), Nat.digits_def' one_lt_two (Nat.pos_of_ne_zero h0),
        List.foldl_cons, Claims.binaryRound]

theorem mulBinary_eq_foldl (P : PointVal) (k : Nat) :
    mulBinary P k = ((Nat.digits 2 k).foldl Claims.binaryRound (.ident P.curve, P)).1 :=
  doubleAndAdd_eq_foldl _ _ _ _ Nat.lt_log2_self

/-! ## What each scalar command writes (R210, R211, R214, R215) -/

section Commands
variable {s : State} {rd rs1 rs2 : RegIdx} {P : PointVal} {k : Nat}

theorem pointAndScalar_of_hasS (hP : s.HasP rs1 P) (hk : s.HasS rs2 k) :
    pointAndScalar s rs1 rs2 = .ok (P, k) :=
  pointAndScalar_eq_ok.2 ⟨State.readP_eq_ok.2 hP, State.readS_eq_ok.2 hk⟩

theorem exec_pmuln (h : pointAndScalar s rs1 rs2 = .ok (P, k)) :
    exec (.pmuln rd rs1 rs2) s = commit s (.ok (s.writeP rd (mulNaive P k))) := by
  simp only [exec, execPmuln, h, ok_bind]

theorem exec_pmulb (h : pointAndScalar s rs1 rs2 = .ok (P, k)) :
    exec (.pmulb rd rs1 rs2) s = commit s (.ok (s.writeP rd (mulBinary P k))) := by
  simp only [exec, execPmulb, h, ok_bind]

end Commands

/-- Settles O46: SLD has no check, and SST reads the register before it writes DATA_A. -/
theorem sldAndSstMovePatterns : Obligations.SldAndSstMovePatterns := by
  refine fun s r => ⟨rfl, fun k hk => ?_⟩
  have hread : s.readS r = .ok k := State.readS_eq_ok.2 hk
  simp only [exec, execSst, hread, ok_bind, commit_ok]
  rfl

/-- Settles O52: the naive algorithm is the iteration of the addition on the right. -/
theorem pmulnAddsRepeatedly : Obligations.PmulnAddsRepeatedly := by
  intro s rd rs1 rs2 P k hP hk
  rw [exec_pmuln (pointAndScalar_of_hasS hP hk), commit_writeP, mulNaive_eq_iterate]

/-- Settles O53: the loop of the binary algorithm is the fold of its round over the scalar's bits. -/
theorem pmulbDoublesAndAdds : Obligations.PmulbDoublesAndAdds := by
  intro s rd rs1 rs2 P k hP hk
  rw [exec_pmulb (pointAndScalar_of_hasS hP hk), commit_writeP, mulBinary_eq_foldl]

/-! ## Both algorithms compute the multiple of the curve's group (R216) -/

section Multiples
variable {e : CurveRec}

@[simp] theorem pointOf_zero : pointOf e 0 = .ident e := rfl

@[simp] theorem pointOf_curve (A : e.weierstrass.Point) : (pointOf e A).curve = e := by
  cases A <;> rfl

variable [Fact e.p.Prime]

/-- R212: each addition adds one more copy of the point. -/
theorem mulNaive_pointOf (A : e.weierstrass.Point) (k : Nat) :
    mulNaive (pointOf e A) k = pointOf e (k • A) := by
  induction k with
  | zero => simp [mulNaive_zero]
  | succ k ih =>
    rcases Nat.eq_zero_or_pos k with rfl | hk
    · simp [mulNaive_one]
    · rw [mulNaive_succ _ _ hk, ih, pointAdd_pointOf, succ_nsmul]

/-- R213: the loop's invariant: the result plus the remaining scalar times the current point stays the same. -/
theorem doubleAndAdd_pointOf (fuel : Nat) (R C : e.weierstrass.Point) (k : Nat) (hk : k < 2 ^ fuel) :
    doubleAndAdd fuel (pointOf e R) (pointOf e C) k = pointOf e (R + k • C) := by
  induction fuel generalizing R C k with
  | zero =>
    obtain rfl : k = 0 := by simpa using hk
    simp [doubleAndAdd]
  | succ fuel ih =>
    have hbits : k • C = (k % 2) • C + (k / 2) • (C + C) := by
      rw [← two_nsmul, ← mul_nsmul, ← add_nsmul, Nat.mod_add_div]
    have hhalf : k / 2 < 2 ^ fuel := by omega
    unfold doubleAndAdd
    split_ifs with h0 hodd
    · simp [h0]
    · rw [pointAdd_pointOf, pointAdd_pointOf, ih _ _ _ hhalf, hbits, hodd, one_nsmul, add_assoc]
    · rw [pointAdd_pointOf, ih _ _ _ hhalf, hbits, Nat.mod_two_ne_one.1 hodd, zero_nsmul, zero_add]

theorem mulBinary_pointOf (A : e.weierstrass.Point) (k : Nat) :
    mulBinary (pointOf e A) k = pointOf e (k • A) := by
  rw [mulBinary, pointOf_curve, ← pointOf_zero, doubleAndAdd_pointOf _ _ _ _ Nat.lt_log2_self, zero_add]

end Multiples

/-- Settles O60: the point stands for an element of the curve's group, and both algorithms give its multiple. -/
theorem algorithmsAgreeOnNonsingularCurves : Obligations.AlgorithmsAgreeOnNonsingularCurves := by
  intro e P k hp h3 hns hP
  have : Fact e.p.Prime := ⟨hp⟩
  obtain ⟨A, rfl⟩ := exists_pointOf h3 hns hP
  rw [mulNaive_pointOf, mulBinary_pointOf]

end Sys2Proof.Machine

/-! PROOF. The statements of 43_system.md: what NOP commits, what a write to CTRL resets, and what a write to STATUS
clears (O11, O14, O38). -/

namespace Sys2Proof.Machine

section SystemWrites
variable {s : State} {v : Word}

/-- R241: with bit 0 clear a write to CTRL does nothing. -/
theorem writeWindow_ctrl_clear (hv : v.getLsbD 0 = false) : writeWindow s 0x004 v = s :=
  if_neg (by rw [hv]; decide)

theorem writeWindow_status (s : State) (v : Word) : writeWindow s 0x008 v = writeStatus s v := rfl

/-- R242: a W1C bit keeps its value unless it is written as 1. -/
theorem and_not_eq_ite (b w : Bool) : (b && !w) = if w = true then false else b := by
  cases w with
  | true => exact Bool.and_false b
  | false => exact Bool.and_true b

/-- R38: with the reset input released, a reset leaves the state after reset but for the agenda and the response. -/
theorem resetDevice_of_released (hr : s.resetLine = false) :
    resetDevice s = { State.resetOf s.cfg with agenda := s.agenda, response := s.response } := by
  rw [resetDevice, hr]
  rfl

end SystemWrites

/-- Settles O11: the write is the reset of the device, after which nothing is in flight for the Engine to commit. -/
theorem softResetResetsEverything : Obligations.SoftResetResetsEverything := by
  intro s v hr he
  have hstep := step_write hr (by decide) rfl he
  refine ⟨fun hv => ?_, fun hv => ?_⟩
  · rw [writeWindow_softReset hv, resetDevice_of_released (s := popEvent s) hr] at hstep
    exact ⟨_, hstep, rfl, step_engine_idle rfl⟩
  · rw [writeWindow_ctrl_clear hv] at hstep
    exact hstep

/-- Settles O14: the write reaches STATUS, where each of the two W1C bits stays unless written as 1. -/
theorem statusWriteClearsStickyBits : Obligations.StatusWriteClearsStickyBits := by
  intro s v hr he
  rw [step_write hr (by decide) rfl he, writeWindow_status, ← and_not_eq_ite, ← and_not_eq_ite]
  rfl

theorem exec_nop (s : State) : exec .nop s = commit s (.ok s) := rfl

/-- Settles O38: NOP commits the state it found. -/
theorem nopOnlyCommits : Obligations.NopOnlyCommits := by
  intro s
  rw [exec_nop, commit_ok]
  rfl

end Sys2Proof.Machine

/-! PROOF. The statements of 60_exceptions.md: which error each command raises, and on what operands, and which words
are illegal (O6, O32 to O37). -/

namespace Sys2Proof.Machine

/-! ## The errors of the operand forms (R251, R256) -/

section Reads
variable {α β : Type} {file : List (Option α)} {i : RegIdx} {f : α → Except ErrorKind β}
  {e k : ErrorKind} {bad : Prop} {cause : α → Prop}

/-- R28, R251: the one error of a read says that the valid bit is 0. -/
theorem readReg_eq_error_iff :
    readReg file i = .error e ↔ e = .uninitializedRegister ∧ (readReg file i).isOk = false := by
  rcases readReg_cases file i with ⟨v, h⟩ | h <;>
    simp [h, Except.isOk, Except.toBool, eq_comm]

/-- R251: the last read of a command, before a computation that raises only the kind `k`. -/
theorem readReg_bind_eq_error (h : ∀ a, f a = .error e ↔ e = k ∧ cause a) :
    (readReg file i >>= f) = .error e ↔
      (e = .uninitializedRegister ∧ (readReg file i).isOk = false) ∨
      (e = k ∧ ∃ a, file[i.toNat]? = some (some a) ∧ cause a) := by
  simp only [bind_eq_error, readReg_eq_error_iff, readReg_eq_ok, h, and_left_comm, exists_and_left]

/-- R251: an earlier read, before a computation that may find another source invalid. -/
theorem readReg_bind_reads_eq_error
    (h : ∀ a, f a = .error e ↔ (e = .uninitializedRegister ∧ bad) ∨ (e = k ∧ cause a)) :
    (readReg file i >>= f) = .error e ↔
      (e = .uninitializedRegister ∧ ((readReg file i).isOk = false ∨ bad)) ∨
      (e = k ∧ ∃ a, file[i.toNat]? = some (some a) ∧ cause a) := by
  rcases readReg_cases file i with ⟨v, hv⟩ | hv
  · have hmem := readReg_eq_ok.1 hv
    simp [hv, h, hmem, Except.isOk, Except.toBool]
  · obtain ⟨-, hnone⟩ := readReg_eq_error.1 hv
    simp [hv, hnone, Except.isOk, Except.toBool, eq_comm]

end Reads

section Forms
variable {s : State} {rs1 rs2 rs3 : RegIdx} {e : ErrorKind}

theorem State.readF_eq_error :
    s.readF rs1 = .error e ↔ e = .uninitializedRegister ∧ s.isValid (.F, rs1) = false :=
  readReg_eq_error_iff

theorem State.readC_eq_error :
    s.readC rs1 = .error e ↔ e = .uninitializedRegister ∧ s.isValid (.C, rs1) = false :=
  readReg_eq_error_iff

theorem State.readP_eq_error :
    s.readP rs1 = .error e ↔ e = .uninitializedRegister ∧ s.isValid (.P, rs1) = false :=
  readReg_eq_error_iff

theorem State.readS_eq_error :
    s.readS rs1 = .error e ↔ e = .uninitializedRegister ∧ s.isValid (.S, rs1) = false :=
  readReg_eq_error_iff

/-- R256: a check that answers its operands, else CurveMismatch. -/
theorem ite_mismatch_eq_error {α : Type} {c : Prop} [Decidable c] {x : α} :
    (if c then Except.ok x else .error ErrorKind.curveMismatch) = .error e ↔
      e = .curveMismatch ∧ ¬ c := by
  split_ifs with h <;> simp [h, eq_comm]

/-- R23: curve records differ when one of their three parts does. -/
theorem CurveRec.ne_iff {E E' : CurveRec} :
    E ≠ E' ↔ E.p ≠ E'.p ∨ E.a ≠ E'.a ∨ E.b ≠ E'.b := by
  obtain ⟨p, a, b⟩ := E
  obtain ⟨p', a', b'⟩ := E'
  simp only [ne_eq, CurveRec.mk.injEq, not_and_or]

theorem twoFelts_eq_error :
    twoFelts s rs1 rs2 = .error e ↔
      (e = .uninitializedRegister ∧
        (s.isValid (.F, rs1) = false ∨ s.isValid (.F, rs2) = false)) ∨
      (e = .curveMismatch ∧ ∃ a, s.HasF rs1 a ∧ ∃ b, s.HasF rs2 b ∧ a.prime ≠ b.prime) :=
  readReg_bind_reads_eq_error fun _ => readReg_bind_eq_error fun _ => ite_mismatch_eq_error

theorem twoPoints_eq_error :
    twoPoints s rs1 rs2 = .error e ↔
      (e = .uninitializedRegister ∧
        (s.isValid (.P, rs1) = false ∨ s.isValid (.P, rs2) = false)) ∨
      (e = .curveMismatch ∧ ∃ P, s.HasP rs1 P ∧ ∃ Q, s.HasP rs2 Q ∧
        (P.curve.p ≠ Q.curve.p ∨ P.curve.a ≠ Q.curve.a ∨ P.curve.b ≠ Q.curve.b)) :=
  readReg_bind_reads_eq_error fun _ => readReg_bind_eq_error fun _ =>
    ite_mismatch_eq_error.trans (and_congr_right' CurveRec.ne_iff)

theorem curveAndCoordinates_eq_error :
    curveAndCoordinates s rs1 rs2 rs3 = .error e ↔
      (e = .uninitializedRegister ∧ (s.isValid (.C, rs1) = false ∨
        s.isValid (.F, rs2) = false ∨ s.isValid (.F, rs3) = false)) ∨
      (e = .curveMismatch ∧ ∃ E, s.HasC rs1 E ∧ ∃ x, s.HasF rs2 x ∧ ∃ y, s.HasF rs3 y ∧
        (x.prime ≠ E.p ∨ y.prime ≠ E.p)) :=
  readReg_bind_reads_eq_error fun _ => readReg_bind_reads_eq_error fun _ =>
    readReg_bind_eq_error fun _ => ite_mismatch_eq_error.trans (and_congr_right' not_and_or)

/-- A read of a register and a scalar has no check of its own (R136, R137, R214, R215). -/
theorem readReg_readS_eq_error {α β : Type} {file : List (Option α)} {g : α → Nat → β} :
    (readReg file rs1 >>= fun a => s.readS rs2 >>= fun k => .ok (g a k)) = .error e ↔
      e = .uninitializedRegister ∧
        ((readReg file rs1).isOk = false ∨ s.isValid (.S, rs2) = false) :=
  (readReg_bind_reads_eq_error (bad := s.isValid (.S, rs2) = false) (k := e)
    (cause := fun _ => False) fun _ => by
      simp [bind_eq_error, State.readS_eq_error]).trans (by simp)

theorem feltAndUnsigned_eq_error :
    feltAndUnsigned s rs1 rs2 = .error e ↔
      e = .uninitializedRegister ∧
        (s.isValid (.F, rs1) = false ∨ s.isValid (.S, rs2) = false) :=
  readReg_readS_eq_error

theorem feltAndSigned_eq_error :
    feltAndSigned s rs1 rs2 = .error e ↔
      e = .uninitializedRegister ∧
        (s.isValid (.F, rs1) = false ∨ s.isValid (.S, rs2) = false) :=
  readReg_readS_eq_error

theorem pointAndScalar_eq_error :
    pointAndScalar s rs1 rs2 = .error e ↔
      e = .uninitializedRegister ∧
        (s.isValid (.P, rs1) = false ∨ s.isValid (.S, rs2) = false) :=
  readReg_readS_eq_error

end Forms

/-! ## The errors of the computations (R125, R126, R128, R129, R178, R179) -/

section Computations
variable {mode : Div0Mode} {a b x : Felt} {P : PointVal} {n p : Nat} {y : Int} {e : ErrorKind}

theorem fInv_eq_error :
    fInv mode b = .error e ↔ e = .divisionByZero ∧ mode = .fault ∧ b.inner = 0 := by
  unfold fInv
  split_ifs with h <;> cases mode <;> simp_all [eq_comm]

theorem fDiv_eq_error :
    fDiv mode a b = .error e ↔ e = .divisionByZero ∧ mode = .fault ∧ b.inner = 0 := by
  rw [← fInv_eq_error, fDiv]
  cases fInv mode b <;> simp

theorem fPowS_eq_error :
    fPowS mode x y = .error e ↔ e = .divisionByZero ∧ mode = .fault ∧ x.inner = 0 ∧ y < 0 := by
  unfold fPowS
  split_ifs with hpos hzero hdiv
  · simp; omega
  · simp [hzero]
  · have hneg : y < 0 := by omega
    simp [hdiv, hneg, eq_comm]
  · simp; tauto

theorem newFelt_eq_error :
    newFelt n p = .error e ↔
      (e = .invalidModulus ∧ p < 2) ∨ (e = .invalidElement ∧ 2 ≤ p ∧ p ≤ n) := by
  unfold newFelt
  split_ifs with hp hn
  · simp [hp, eq_comm]
  · have h2 : 2 ≤ p := by omega
    simp [hp, hn, h2, eq_comm]
  · simp [hp, hn]

theorem coordinates_eq_error :
    coordinates P = .error e ↔ e = .noCoordinates ∧ ∃ E, P = .ident E := by
  cases P <;> simp [coordinates, eq_comm]

end Computations

/-! ## The error a command raises -/

/-- R251 to R258: when a command raises an error of each kind. -/
def Raises (i : Instr) (s : State) (e : ErrorKind) : Prop :=
  (e = .uninitializedRegister ∧ ∃ o ∈ i.sources, s.isValid o = false) ∨
  (e = .curveMismatch ∧ Claims.Mismatch i s) ∨
  (e = .divisionByZero ∧ s.cfg.div0Mode = .fault ∧ Claims.ZeroDivisor i s) ∨
  (e = .pointNotOnCurve ∧ ∃ rd r1 r2 r3 E x y, i = .pnew rd r1 r2 r3 ∧ s.HasC r1 E ∧
    s.HasF r2 ⟨x, E.p⟩ ∧ s.HasF r3 ⟨y, E.p⟩ ∧ (y ^ 2) % E.p ≠ (x ^ 3 + E.a * x + E.b) % E.p) ∨
  (e = .noCoordinates ∧ ∃ rd r1 E, (i = .pgetx rd r1 ∨ i = .pgety rd r1) ∧ s.HasP r1 (.ident E)) ∨
  (e = .invalidModulus ∧ (∃ rd, i = .fnew rd) ∧ s.dataB < 2) ∨
  (e = .invalidElement ∧ (∃ rd, i = .fnew rd) ∧ 2 ≤ s.dataB ∧ s.dataB ≤ s.dataA)

section Commit
variable {s s' : State} {e e' k : ErrorKind}

theorem commit_error_raises : commit s (.error e') = .next (errorEntry e s) ↔ e' = e := by
  simp only [commit_error, Host.Outcome.next.injEq]
  exact ⟨errorEntry_injective, congrArg (errorEntry · s)⟩

/-- A commit of writes raises nothing: ERR stays 0. -/
theorem commit_ok_ne (herr : s'.err = false) : commit s (.ok s') ≠ .next (errorEntry e s) := by
  simp only [commit_ok, ne_eq, Host.Outcome.next.injEq]
  intro h
  simpa [herr] using congrArg State.err h

/-- The error of a commit comes from the first step of the command or from what follows it. -/
theorem commit_bind_raises {α : Type} {x : Except ErrorKind α} {f : α → Except ErrorKind State} :
    commit s (x >>= f) = .next (errorEntry e s) ↔
      x = .error e ∨ ∃ a, x = .ok a ∧ commit s (f a) = .next (errorEntry e s) := by
  cases x <;> simp only [error_bind, ok_bind, commit_error_raises] <;> simp

/-- A command that writes what it made of its operands raises what making it raises. -/
theorem commit_write_raises {α : Type} {x : Except ErrorKind α} {f : α → Except ErrorKind State}
    (herr : s.err = false) (hf : ∀ a, ∃ s', f a = .ok s' ∧ s'.err = s.err) :
    commit s (x >>= f) = .next (errorEntry e s) ↔ x = .error e := by
  rw [commit_bind_raises, or_iff_left]
  rintro ⟨a, -, ha⟩
  obtain ⟨s', hs', hkeep⟩ := hf a
  exact commit_ok_ne (hkeep.trans herr) (hs' ▸ ha)

/-- A command with a check after its reads, which raises only the kind `k`. -/
theorem commit_check_raises {α : Type} {x : Except ErrorKind α} {f : α → Except ErrorKind State}
    {cause : α → Prop}
    (hf : ∀ a, commit s (f a) = .next (errorEntry e s) ↔ e = k ∧ cause a) :
    commit s (x >>= f) = .next (errorEntry e s) ↔
      x = .error e ∨ (e = k ∧ ∃ a, x = .ok a ∧ cause a) := by
  simp only [commit_bind_raises, hf, and_left_comm, exists_and_left]

/-- A command that writes where a check succeeds, and raises `e'` where it fails. -/
theorem commit_ite_raises {c : Prop} [Decidable c] (herr : s'.err = false) :
    commit s (if c then .ok s' else .error e') = .next (errorEntry e s) ↔ e = e' ∧ ¬ c := by
  split_ifs with hc
  · simp [hc, commit_ok_ne herr, -commit_ok]
  · simp [hc, commit_error_raises, eq_comm, -commit_error]

end Commit

/-- R137, R257: under the invariant, FPOWS divides by zero when its base is 0 and its exponent negative. -/
theorem zeroDivisor_fpows_iff {s : State} {rd rs1 rs2 : RegIdx} (hs : s.Inv) :
    Claims.ZeroDivisor (.fpows rd rs1 rs2) s ↔
      ∃ x y, feltAndSigned s rs1 rs2 = .ok (x, y) ∧ x.inner = 0 ∧ y < 0 := by
  constructor
  · rintro ⟨x, k, hx, hk, h0, hneg⟩
    exact ⟨x, _, feltAndSigned_of_hasS hs hx hk, h0, hneg⟩
  · rintro ⟨x, y, hxy, h0, hneg⟩
    obtain ⟨hx, k, hk, rfl⟩ := feltAndSigned_eq_ok.1 hxy
    obtain ⟨-, hw, -⟩ := hs.legal
    rw [signedOf_eq_signed (by omega) (hs.scalar_lt hk)] at hneg
    exact ⟨x, k, State.readF_eq_ok.1 hx, State.readS_eq_ok.1 hk, h0, hneg⟩

/-- A command raises an error exactly when the error's cause is there: one case per operand form and check.
The invariant says that a scalar has W bits, which the sign of FPOWS' exponent rests on. -/
theorem exec_raises_iff {i : Instr} {s : State} {e : ErrorKind} (herr : s.err = false)
    (hinv : e = .divisionByZero → s.Inv) :
    exec i s = .next (errorEntry e s) ↔ Raises i s e := by
  cases i with
  | nop | sld =>
    refine (iff_false_intro (commit_ok_ne (by exact herr))).trans ?_
    simp [Raises, Instr.sources, Claims.Mismatch, Claims.ZeroDivisor]
  | fnew rd =>
    refine (commit_write_raises herr fun _ => ⟨_, rfl, by rfl⟩).trans (newFelt_eq_error.trans ?_)
    simp [Raises, Instr.sources, Claims.Mismatch, Claims.ZeroDivisor]
  | frd rs1 =>
    refine (commit_write_raises herr fun _ => ⟨_, rfl, by rfl⟩).trans <|
      State.readF_eq_error.trans ?_
    simp [Raises, Instr.sources, Claims.Mismatch, Claims.ZeroDivisor]
  | sst rs1 =>
    refine (commit_write_raises herr fun _ => ⟨_, rfl, by rfl⟩).trans <|
      State.readS_eq_error.trans ?_
    simp [Raises, Instr.sources, Claims.Mismatch, Claims.ZeroDivisor]
  | pid rd rs1 =>
    refine (commit_write_raises herr fun _ => ⟨_, rfl, by rfl⟩).trans <|
      State.readC_eq_error.trans ?_
    simp [Raises, Instr.sources, Claims.Mismatch, Claims.ZeroDivisor]
  | fadd _ rs1 rs2 | fsub _ rs1 rs2 | fmul _ rs1 rs2 | cnew _ rs1 rs2 | feq rs1 rs2 =>
    refine (commit_write_raises herr fun _ => ⟨_, rfl, by rfl⟩).trans <|
      twoFelts_eq_error.trans ?_
    simp [Raises, Instr.sources, Claims.Mismatch, Claims.ZeroDivisor]
  | padd _ rs1 rs2 | peq rs1 rs2 =>
    refine (commit_write_raises herr fun _ => ⟨_, rfl, by rfl⟩).trans <|
      twoPoints_eq_error.trans ?_
    simp [Raises, Instr.sources, Claims.Mismatch, Claims.ZeroDivisor]
  | fpowu rd rs1 rs2 =>
    refine (commit_write_raises herr fun _ => ⟨_, rfl, by rfl⟩).trans <|
      feltAndUnsigned_eq_error.trans ?_
    simp [Raises, Instr.sources, Claims.Mismatch, Claims.ZeroDivisor]
  | pmuln rd rs1 rs2 | pmulb rd rs1 rs2 =>
    refine (commit_write_raises herr fun _ => ⟨_, rfl, by rfl⟩).trans <|
      pointAndScalar_eq_error.trans ?_
    simp [Raises, Instr.sources, Claims.Mismatch, Claims.ZeroDivisor]
  | fdiv rd rs1 rs2 =>
    refine (commit_check_raises fun _ =>
      (commit_write_raises herr fun _ => ⟨_, rfl, by rfl⟩).trans fDiv_eq_error).trans ?_
    simp [twoFelts_eq_error, twoFelts_eq_ok, State.readF_eq_ok, Raises, Instr.sources,
      Claims.Mismatch, Claims.ZeroDivisor, or_assoc, and_assoc,
      and_left_comm (b := s.cfg.div0Mode = .fault)]
  | finv rd rs1 =>
    refine (commit_check_raises fun _ =>
      (commit_write_raises herr fun _ => ⟨_, rfl, by rfl⟩).trans fInv_eq_error).trans ?_
    simp [State.readF_eq_error, State.readF_eq_ok, Raises, Instr.sources, Claims.Mismatch,
      Claims.ZeroDivisor, and_left_comm (b := s.cfg.div0Mode = .fault)]
  | fpows rd rs1 rs2 =>
    refine (commit_check_raises fun _ =>
      (commit_write_raises herr fun _ => ⟨_, rfl, by rfl⟩).trans fPowS_eq_error).trans ?_
    by_cases he : e = .divisionByZero
    · simp [he, feltAndSigned_eq_error, zeroDivisor_fpows_iff (hinv he), Raises,
        and_left_comm (b := s.cfg.div0Mode = .fault)]
    · simp [he, feltAndSigned_eq_error, Raises, Instr.sources, Claims.Mismatch]
  | pnew rd rs1 rs2 rs3 =>
    refine (commit_check_raises fun _ => commit_ite_raises (by exact herr)).trans ?_
    simp [curveAndCoordinates_eq_error, curveAndCoordinates_eq_ok, onCurve_iff, State.readF_eq_ok,
      State.readC_eq_ok, Raises, Instr.sources, Claims.Mismatch, Claims.ZeroDivisor, or_assoc,
      and_assoc]
  | pgetx rd rs1 | pgety rd rs1 =>
    refine (commit_check_raises fun _ =>
      (commit_write_raises herr fun _ => ⟨_, rfl, by rfl⟩).trans coordinates_eq_error).trans ?_
    simp [State.readP_eq_error, State.readP_eq_ok, Raises, Instr.sources, Claims.Mismatch,
      Claims.ZeroDivisor]

/-- Settles O32: of the causes of an error, UninitializedRegister has an invalid source. -/
theorem uninitializedRegisterExactly : Obligations.UninitializedRegisterExactly := fun _ _ herr =>
  (exec_raises_iff (e := .uninitializedRegister) herr nofun).trans (by simp [Raises])

/-- Settles O33: CurveMismatch has operands that do not match. -/
theorem curveMismatchExactly : Obligations.CurveMismatchExactly := fun _ _ herr =>
  (exec_raises_iff (e := .curveMismatch) herr nofun).trans (by simp [Raises])

/-- Settles O34: DivisionByZero has a zero divisor in the mode FAULT. -/
theorem divisionByZeroExactly : Obligations.DivisionByZeroExactly := fun _ _ hs herr =>
  (exec_raises_iff (e := .divisionByZero) herr fun _ => hs).trans (by simp [Raises])

/-- Settles O35: PointNotOnCurve has coordinates that fail the curve equation. -/
theorem pointNotOnCurveExactly : Obligations.PointNotOnCurveExactly := fun _ _ herr =>
  (exec_raises_iff (e := .pointNotOnCurve) herr nofun).trans (by simp [Raises])

/-- Settles O36: NoCoordinates has the Identity as the operand of PGETX or PGETY. -/
theorem noCoordinatesExactly : Obligations.NoCoordinatesExactly := fun _ _ herr =>
  (exec_raises_iff (e := .noCoordinates) herr nofun).trans (by simp [Raises])

/-- Settles O37: each of the two kinds has its one condition on the buffers of FNEW. -/
theorem fnewErrorsExactly : Obligations.FnewErrorsExactly := fun _ _ herr =>
  ⟨(exec_raises_iff (e := .invalidModulus) herr nofun).trans (by simp [Raises]),
    (exec_raises_iff (e := .invalidElement) herr nofun).trans (by simp [Raises])⟩

/-! ## Illegal words (R93 to R96, R252) -/

section IllegalWords
variable {cfg : Config} {w : Word} {r r' : Row}

theorem fieldLegal_iff {cls : Option RegClass} {x : RegIdx} :
    Claims.FieldLegal cfg cls x ↔ (cls = none → x = 0) ∧ fieldInRange cfg cls x = true := by
  cases cls <;> simp [Claims.FieldLegal, fieldInRange, Config.hasReg]

/-- R92: a row is known from its opcode. -/
theorem row_eq_of_opcode (hr : r ∈ opcodeTable) (hr' : r' ∈ opcodeTable)
    (hop : opField r.pattern = opField r'.pattern) : r = r' :=
  List.inj_on_of_nodup_map opcodes_nodup hr hr' hop

/-- R95: whether a word is legal is decided by the row with its opcode. -/
theorem decode_ne_none_iff (hr : r ∈ opcodeTable) (hop : opField r.pattern = opField w) :
    decode cfg w ≠ none ↔ r.selects w = true ∧ r.inRange cfg w = true := by
  by_cases hs : r.selects w = true
  · rw [decode_of_selects hr cfg hs, inRange_eq_wellFormed hr]
    simp [hs]
  · refine iff_of_false (fun h => hs ?_) fun h => hs h.1
    obtain ⟨i, hi⟩ := Option.ne_none_iff_exists'.1 h
    obtain ⟨r', hr', hs', -⟩ := exists_row_of_decode hi
    have hop' : opField w = opField r'.pattern := ((row_selects_iff hr' w).1 hs').1
    rwa [row_eq_of_opcode hr hr' (hop.trans hop')]

/-- R93, R94: the row with a word's opcode selects the word and finds its fields in range when `z` and
every register field are as a legal word has them. -/
theorem selects_and_inRange_iff (hr : r ∈ opcodeTable) (hop : opField r.pattern = opField w) :
    (r.selects w = true ∧ r.inRange cfg w = true) ↔
      zField w = 0 ∧ Claims.FieldLegal cfg r.rd (rdField w) ∧
      Claims.FieldLegal cfg r.rs1 (rs1Field w) ∧ Claims.FieldLegal cfg r.rs2 (rs2Field w) ∧
      Claims.FieldLegal cfg r.rs3 (rs3Field w) := by
  simp only [row_selects_iff hr, hop, Row.inRange, Bool.and_eq_true, fieldLegal_iff]
  tauto

/-- R252: with an opcode of the table, a word is illegal by a field of its opcode's row. -/
theorem illegalWord_iff (hr : r ∈ opcodeTable) (hop : opField r.pattern = opField w) :
    Claims.IllegalWord cfg w ↔ ¬ (r.selects w = true ∧ r.inRange cfg w = true) := by
  rw [selects_and_inRange_iff hr hop]
  constructor
  · rintro (hres | ⟨r', hr', hop', hbad⟩)
    · exact absurd hop ((reservedOpcode_iff _).1 hres r hr)
    · rw [row_eq_of_opcode hr' hr (hop'.trans hop.symm)] at hbad
      tauto
  · intro hbad
    exact .inr ⟨r, hr, hop, by tauto⟩

theorem decode_eq_none_iff_illegalWord : decode cfg w = none ↔ Claims.IllegalWord cfg w := by
  by_cases hres : Claims.ReservedOpcode (opField w)
  · obtain ⟨-, hnone, -⟩ := reservedOpcodesAreIllegal
    exact iff_of_true (hnone cfg w hres) (.inl hres)
  · obtain ⟨r, hr, hop⟩ : ∃ r ∈ opcodeTable, opField r.pattern = opField w := by
      simpa [reservedOpcode_iff] using hres
    rw [illegalWord_iff hr hop, ← decode_ne_none_iff hr hop, not_ne_iff]

end IllegalWords

/-- R252: with an illegal word in flight, the Engine's turn commits IllegalCommand. -/
theorem step_engine_illegal {s : State} (hb : s.busy = true) (hr : s.resetLine = false)
    (he : nextEvent s = .engine) (hi : decode s.cfg s.cmd = none) :
    step s = .next (errorEntry .illegalCommand (popEvent s)) := by
  have hon : engineEnabled (popEvent s) = true := engineEnabled_iff.2 ⟨hb, hr⟩
  have hfetch : fetch (popEvent s) = none := hi
  simp only [step, he, runEvent, engineTurn, hon, hfetch, if_true, commit_error]

/-- Settles O6: a word that decodes to nothing has a reserved opcode or an illegal field in the row of its
opcode, and no command raises IllegalCommand. -/
theorem illegalCommandExactlyForIllegalWords :
    Obligations.IllegalCommandExactlyForIllegalWords := by
  refine ⟨fun _ _ => decode_eq_none_iff_illegalWord, fun s hb hr he herr => ?_⟩
  rw [← decode_eq_none_iff_illegalWord]
  cases hd : decode s.cfg s.cmd with
  | none => exact iff_of_true (step_engine_illegal hb hr he hd) rfl
  | some i =>
    rw [step_engine_decoded hb hr he hd]
    refine (exec_raises_iff (s := popEvent s) (e := .illegalCommand) herr nofun).trans ?_
    simp [Raises]

end Sys2Proof.Machine

/-! PROOF. The statement of 70_reset_and_hazards.md: what the reset input does while it is asserted, and when it is
released (O12). -/

namespace Sys2Proof.Machine

section ResetInput
variable {s : State} {addr bytes : Nat} {v : Word}

theorem step_assertReset (he : nextEvent s = .assertReset) :
    step s = .next (assertReset (popEvent s)) := by
  rw [step, he]
  rfl

theorem readResponse_asserted (hr : s.resetLine = true) : readResponse addr bytes s = .noResponse :=
  if_pos hr

/-- R280: a read inside the window gets no response while the reset input is asserted. -/
theorem step_read_asserted (hr : s.resetLine = true) (hw : inWindow s.cfg addr = true)
    (he : nextEvent s = .read addr bytes) :
    step s = .next (respond (popEvent s) .noResponse) := by
  rw [step_read_inWindow hw he, readResponse_asserted hr]

theorem hostWrite_asserted (hr : s.resetLine = true) (hw : inWindow s.cfg addr = true) :
    hostWrite addr bytes v s = .next (respond s .noResponse) := by
  rw [hostWrite, if_pos hw, if_pos hr]

/-- R280: a write inside the window, of whatever register, is not made while the reset input is asserted. -/
theorem step_write_asserted (hr : s.resetLine = true) (hw : inWindow s.cfg addr = true)
    (he : nextEvent s = .write addr bytes v) :
    step s = .next (respond (popEvent s) .noResponse) := by
  rw [step, he]
  exact hostWrite_asserted (s := popEvent s) hr hw

/-- R280, R38: the release of the asserted reset input leaves the state after reset but for the agenda and the
response. -/
theorem releaseReset_asserted (hr : s.resetLine = true) :
    releaseReset s = { State.resetOf s.cfg with agenda := s.agenda, response := s.response } := by
  rw [releaseReset, if_pos hr]
  rfl

theorem step_releaseReset (he : nextEvent s = .releaseReset) :
    step s = .next (releaseReset (popEvent s)) := by
  rw [step, he]
  rfl

end ResetInput

/-- Settles O12: the assertion raises the line, under which every access gets no response, and the release is a reset
of the device. -/
theorem hardwareResetResetsEverything : Obligations.HardwareResetResetsEverything := by
  refine ⟨fun s he => ⟨_, step_assertReset he, rfl⟩, fun s addr bytes v hr hlo hhi he => ?_,
    fun s hr he => ?_⟩
  · have hw : inWindow s.cfg addr = true := decide_eq_true ⟨hlo, hhi⟩
    rcases he with hread | hwrite
    · exact step_read_asserted hr hw hread
    · exact step_write_asserted hr hw hwrite
  · rw [step_releaseReset he, releaseReset_asserted (s := popEvent s) hr]
    rfl

end Sys2Proof.Machine
